-- ==== Sys2Proof/Word.lean ====
section
/-! DEFINITION. The word types of the block (00_scope.md R7, R8). -/

namespace Sys2Proof

/-- A byte, 8 bits (R7). -/
abbrev Byte := BitVec 8

/-- A scalar: `length`, `crc`, the accumulator and every scalar result are unsigned 32-bit (R7). -/
abbrev Word := BitVec 32

/-- A command word `cmd[39:0]` (30_encoding.md R70). -/
abbrev CmdWord := BitVec 40

end Sys2Proof
end

