-- ==== Sys2Proof/Config.lean ====
section
/-! DEFINITION. The parameters a model takes (00_scope.md R6). There is no free value: every content the spec leaves
unspecified is unreadable, so nothing in the model has to stand for one. -/

namespace Sys2Proof

/-- `LEN_MAX`, the largest legal chunk length, fixed by the source: 2^31 - 1 (R6). -/
def lenMax : Nat := 2147483647

/-- The parameters that an instance of the block chooses (R6). `OCAP` is not among them: it is fixed by `DCAP`. -/
structure Params where
  /-- `DCAP`: capacity in bytes of the payload store `CK.DATA`. -/
  dcap : Nat
  /-- `ICAP`: capacity in bytes of the input buffer `IBUF`. -/
  icap : Nat
  /-- `TEXT_OPS`: whether CT.FROMS, CT.DISP and CH.TEXT exist. -/
  textOps : Bool
  deriving DecidableEq, Repr

/-- `OCAP`, the capacity of the output buffer: fixed, `12 + DCAP` (R6, 90_conflicts.md C7). -/
def Params.ocap (p : Params) : Nat := 12 + p.dcap

/-- The defaults of R6: `DCAP = LEN_MAX`, `ICAP = 2^32 - 1`, `TEXT_OPS = true`. -/
def Params.standard : Params := ⟨lenMax, 4294967295, true⟩

end Sys2Proof
end

