-- ==== Sys2Proof/Syntax.lean ====
section
/-! DEFINITION. The commands of the block (30_encoding.md R72), the host's moves (20_memory.md R60 to R63) and the lines
of the assembler (30_encoding.md R88 to R90), as data. -/

namespace Sys2Proof

/-- The 24 commands, one constructor for each row of spec/opcode_table.json (R72). A command names its registers
implicitly; only CRC.BYTE (R73) and CT.FROMB (R74) carry an operand. -/
inductive Instr where
  | crcInit
  | crcByte (b : Byte)
  | crcBuf
  | crcRead
  | crcSum
  | ctFromb (b0 b1 b2 b3 : Byte)
  | ctFroms
  | ctBytes
  | ctDisp
  | ctCrit
  | ctPub
  | ctRsv
  | ctSafe
  | ctFlags
  | ctEq
  | chNew
  | chParse
  | chLen
  | chType
  | chData
  | chCrc
  | chSize
  | chEmit
  | chText
  deriving DecidableEq, Repr

/-- The mnemonic of R72. -/
def Instr.mnemonic : Instr → String
  | .crcInit => "CRC.INIT"
  | .crcByte _ => "CRC.BYTE"
  | .crcBuf => "CRC.BUF"
  | .crcRead => "CRC.READ"
  | .crcSum => "CRC.SUM"
  | .ctFromb _ _ _ _ => "CT.FROMB"
  | .ctFroms => "CT.FROMS"
  | .ctBytes => "CT.BYTES"
  | .ctDisp => "CT.DISP"
  | .ctCrit => "CT.CRIT"
  | .ctPub => "CT.PUB"
  | .ctRsv => "CT.RSV"
  | .ctSafe => "CT.SAFE"
  | .ctFlags => "CT.FLAGS"
  | .ctEq => "CT.EQ"
  | .chNew => "CH.NEW"
  | .chParse => "CH.PARSE"
  | .chLen => "CH.LEN"
  | .chType => "CH.TYPE"
  | .chData => "CH.DATA"
  | .chCrc => "CH.CRC"
  | .chSize => "CH.SIZE"
  | .chEmit => "CH.EMIT"
  | .chText => "CH.TEXT"

/-- The host's moves between commands. There are no others (70_reset_and_hazards.md R233). -/
inductive HostMove where
  /-- Write these bytes to `IBUF` from offset 0 and their number to `ILEN` (R60). -/
  | write (bytes : List Byte)
  /-- Copy `OBUF[0..OLEN)` to `IBUF` and `OLEN` to `ILEN` (R63). -/
  | loop
  /-- Read what the host may read (R61). -/
  | read
  /-- Assert reset (70_reset_and_hazards.md R220). -/
  | reset
  /-- Issue one command word (R62). -/
  | issue (word : CmdWord)
  deriving DecidableEq, Repr

/-- The host-readable registers, as an `.expect` directive names them (10_state.md R32, 30_encoding.md R89). -/
inductive HostReg where
  | res
  | stErr
  | stExp
  | stFnd
  | olen
  | obuf
  deriving DecidableEq, Repr

/-- The value of an `.expect` directive. DESIGN CHOICE, safe (log 9): a number for a register, bytes for `OBUF`. -/
inductive ExpectValue where
  | num (n : Nat)
  | bytes (bs : List Byte)
  deriving DecidableEq, Repr

/-- `.expect <register> = <value>` (R89). -/
structure Expect where
  reg : HostReg
  value : ExpectValue
  deriving DecidableEq, Repr

/-- One line of a listing (R88 to R90). -/
inductive Line where
  /-- A command (R88). -/
  | cmd (i : Instr)
  /-- `.ibuf <hex bytes>`, `.ibuf "ascii text"` or `.ibuf empty` (R89). -/
  | ibuf (bytes : List Byte)
  /-- `.loop` (R89). -/
  | loop
  /-- `.expect <register> = <value>` (R89). -/
  | expect (e : Expect)
  /-- `.reset` (R89). -/
  | reset
  /-- The pseudo-instruction `CRC.BYTES b0 ... bk` (R90). -/
  | crcBytes (bytes : List Byte)
  deriving DecidableEq, Repr

end Sys2Proof
end

