-- ==== Sys2Proof/WellFormed.lean ====
section
/-! DEFINITION. The checks on parameters, commands and host moves that the types do not make by themselves. -/

namespace Sys2Proof

/-- The legal parameter values (00_scope.md R6): `DCAP` from 0 to `LEN_MAX`, `ICAP` from `12 + DCAP` to 2^32 - 1. -/
def Params.wf (p : Params) : Bool :=
  p.dcap ≤ lenMax && 12 + p.dcap ≤ p.icap && p.icap ≤ 4294967295

/-- The three text conveniences that `TEXT_OPS` gates (00_scope.md R4, R6). -/
def Instr.isText : Instr → Bool
  | .ctFroms | .ctDisp | .chText => true
  | .crcInit | .crcByte _ | .crcBuf | .crcRead | .crcSum | .ctFromb _ _ _ _ | .ctBytes | .ctCrit | .ctPub |
    .ctRsv | .ctSafe | .ctFlags | .ctEq | .chNew | .chParse | .chLen | .chType | .chData | .chCrc | .chSize |
    .chEmit => false

/-- A command exists in an instance with these parameters: the text commands only when `TEXT_OPS = true` (30_encoding.md
R72). An operand is always in range, by its type. -/
def Instr.wf (p : Params) (i : Instr) : Bool := p.textOps || !i.isText

/-- A host move the host has in an instance with these parameters: `ILEN` may be set to at most `ICAP` (20_memory.md
R60). -/
def HostMove.wf (p : Params) : HostMove → Bool
  | .write bytes => bytes.length ≤ p.icap
  | .loop | .read | .reset | .issue _ => true

end Sys2Proof
end

