-- ==== Sys2Proof/Decode.lean ====
section
/-! DEFINITION. The decoder (30_encoding.md R84 to R86), total on every 40-bit word and rejecting by name, the encoder
(R70 to R75), and the mask and match table of spec/opcode_table.json. -/

namespace Sys2Proof

/-- Why a command word is reserved. -/
inductive Reject where
  /-- `op` is not in the opcode map of this instance (R85). -/
  | reservedOp
  /-- An immediate bit that must be zero is set (R86). -/
  | reservedImm
  deriving DecidableEq, Repr

/-- The decoder's verdict. -/
inductive Decoded where
  | instr (i : Instr)
  | rejected (r : Reject)
  deriving DecidableEq, Repr

/-- `op = cmd[39:32]` (R70). -/
def cmdOp (w : CmdWord) : Byte := w.extractLsb' 32 8

/-- `imm = cmd[31:0]` (R70). -/
def cmdImm (w : CmdWord) : Word := w.extractLsb' 0 32

/-- A command without an immediate: `imm` must be zero (R75, R86). -/
def decodePlain (i : Instr) (imm : Word) : Decoded :=
  if imm = 0 then .instr i else .rejected .reservedImm

/-- A text command: its code is reserved when `TEXT_OPS = false` (R72, R85). -/
def decodeText (p : Params) (i : Instr) (imm : Word) : Decoded :=
  if p.textOps then decodePlain i imm else .rejected .reservedOp

/-- CRC.BYTE: the byte is `imm[7:0]` and `imm[31:8]` must be zero (R73). -/
def decodeCrcByte (imm : Word) : Decoded :=
  if imm.extractLsb' 8 24 = 0 then .instr (.crcByte (imm.extractLsb' 0 8)) else .rejected .reservedImm

/-- CT.FROMB: `b0 = imm[31:24]` down to `b3 = imm[7:0]`, all bits significant (R74). -/
def decodeCtFromb (imm : Word) : Decoded :=
  .instr (.ctFromb (imm.extractLsb' 24 8) (imm.extractLsb' 16 8) (imm.extractLsb' 8 8) (imm.extractLsb' 0 8))

/-- The opcode map (R72), read by `op`. -/
def decodeFields (p : Params) (op : Byte) (imm : Word) : Decoded :=
  match op.toNat with
  | 0x00 => decodePlain .crcInit imm
  | 0x01 => decodeCrcByte imm
  | 0x02 => decodePlain .crcBuf imm
  | 0x03 => decodePlain .crcRead imm
  | 0x04 => decodePlain .crcSum imm
  | 0x10 => decodeCtFromb imm
  | 0x11 => decodeText p .ctFroms imm
  | 0x12 => decodePlain .ctBytes imm
  | 0x13 => decodeText p .ctDisp imm
  | 0x14 => decodePlain .ctCrit imm
  | 0x15 => decodePlain .ctPub imm
  | 0x16 => decodePlain .ctRsv imm
  | 0x17 => decodePlain .ctSafe imm
  | 0x18 => decodePlain .ctFlags imm
  | 0x19 => decodePlain .ctEq imm
  | 0x20 => decodePlain .chNew imm
  | 0x21 => decodePlain .chParse imm
  | 0x22 => decodePlain .chLen imm
  | 0x23 => decodePlain .chType imm
  | 0x24 => decodePlain .chData imm
  | 0x25 => decodePlain .chCrc imm
  | 0x26 => decodePlain .chSize imm
  | 0x27 => decodePlain .chEmit imm
  | 0x28 => decodeText p .chText imm
  | _ => .rejected .reservedOp

/-- Decoding a command word (R84). -/
def decode (p : Params) (w : CmdWord) : Decoded := decodeFields p (cmdOp w) (cmdImm w)

/-- The operation code of R72. -/
def Instr.op : Instr → Byte
  | .crcInit => 0x00#8
  | .crcByte _ => 0x01#8
  | .crcBuf => 0x02#8
  | .crcRead => 0x03#8
  | .crcSum => 0x04#8
  | .ctFromb _ _ _ _ => 0x10#8
  | .ctFroms => 0x11#8
  | .ctBytes => 0x12#8
  | .ctDisp => 0x13#8
  | .ctCrit => 0x14#8
  | .ctPub => 0x15#8
  | .ctRsv => 0x16#8
  | .ctSafe => 0x17#8
  | .ctFlags => 0x18#8
  | .ctEq => 0x19#8
  | .chNew => 0x20#8
  | .chParse => 0x21#8
  | .chLen => 0x22#8
  | .chType => 0x23#8
  | .chData => 0x24#8
  | .chCrc => 0x25#8
  | .chSize => 0x26#8
  | .chEmit => 0x27#8
  | .chText => 0x28#8

/-- The immediate of R73 to R75: the byte, the four bytes first byte first, zero otherwise. -/
def Instr.imm : Instr → Word
  | .crcByte b => 0#24 ++ b
  | .ctFromb b0 b1 b2 b3 => b0 ++ b1 ++ b2 ++ b3
  | .crcInit | .crcBuf | .crcRead | .crcSum | .ctFroms | .ctBytes | .ctDisp | .ctCrit | .ctPub | .ctRsv |
    .ctSafe | .ctFlags | .ctEq | .chNew | .chParse | .chLen | .chType | .chData | .chCrc | .chSize | .chEmit |
    .chText => 0#32

/-- The command word of a command (R70). -/
def encode (i : Instr) : CmdWord := i.op ++ i.imm

/-- One row of spec/opcode_table.json. -/
structure OpcodeRow where
  mnemonic : String
  pattern : CmdWord
  mask : CmdWord
  deriving DecidableEq, Repr

/-- The word is one of the row's: `(cmd & mask) = match` (R84). -/
def OpcodeRow.covers (r : OpcodeRow) (w : CmdWord) : Bool := w &&& r.mask == r.pattern

/-- spec/opcode_table.json, row by row: CRC generator. -/
def opcodeRowsCrc : List OpcodeRow :=
  [ ⟨"CRC.INIT", 0x0000000000#40, 0xFFFFFFFFFF#40⟩,
    ⟨"CRC.BYTE", 0x0100000000#40, 0xFFFFFFFF00#40⟩,
    ⟨"CRC.BUF", 0x0200000000#40, 0xFFFFFFFFFF#40⟩,
    ⟨"CRC.READ", 0x0300000000#40, 0xFFFFFFFFFF#40⟩,
    ⟨"CRC.SUM", 0x0400000000#40, 0xFFFFFFFFFF#40⟩ ]

/-- spec/opcode_table.json, row by row: chunk-type unit. -/
def opcodeRowsType : List OpcodeRow :=
  [ ⟨"CT.FROMB", 0x1000000000#40, 0xFF00000000#40⟩,
    ⟨"CT.FROMS", 0x1100000000#40, 0xFFFFFFFFFF#40⟩,
    ⟨"CT.BYTES", 0x1200000000#40, 0xFFFFFFFFFF#40⟩,
    ⟨"CT.DISP", 0x1300000000#40, 0xFFFFFFFFFF#40⟩,
    ⟨"CT.CRIT", 0x1400000000#40, 0xFFFFFFFFFF#40⟩,
    ⟨"CT.PUB", 0x1500000000#40, 0xFFFFFFFFFF#40⟩,
    ⟨"CT.RSV", 0x1600000000#40, 0xFFFFFFFFFF#40⟩,
    ⟨"CT.SAFE", 0x1700000000#40, 0xFFFFFFFFFF#40⟩,
    ⟨"CT.FLAGS", 0x1800000000#40, 0xFFFFFFFFFF#40⟩,
    ⟨"CT.EQ", 0x1900000000#40, 0xFFFFFFFFFF#40⟩ ]

/-- spec/opcode_table.json, row by row: chunk parser and framer. -/
def opcodeRowsChunk : List OpcodeRow :=
  [ ⟨"CH.NEW", 0x2000000000#40, 0xFFFFFFFFFF#40⟩,
    ⟨"CH.PARSE", 0x2100000000#40, 0xFFFFFFFFFF#40⟩,
    ⟨"CH.LEN", 0x2200000000#40, 0xFFFFFFFFFF#40⟩,
    ⟨"CH.TYPE", 0x2300000000#40, 0xFFFFFFFFFF#40⟩,
    ⟨"CH.DATA", 0x2400000000#40, 0xFFFFFFFFFF#40⟩,
    ⟨"CH.CRC", 0x2500000000#40, 0xFFFFFFFFFF#40⟩,
    ⟨"CH.SIZE", 0x2600000000#40, 0xFFFFFFFFFF#40⟩,
    ⟨"CH.EMIT", 0x2700000000#40, 0xFFFFFFFFFF#40⟩,
    ⟨"CH.TEXT", 0x2800000000#40, 0xFFFFFFFFFF#40⟩ ]

/-- The whole table. The decoder does not use it: it is the second reading of the encodings that the decoder is held
against (R84, last sentence). -/
def opcodeRows : List OpcodeRow := opcodeRowsCrc ++ opcodeRowsType ++ opcodeRowsChunk

/-- The instruction the decoder reads from the word whose low `nbits` bits are those of `w`, every higher bit zero, at
the default parameters (00_scope.md R6). A command word has 40 bits, so a longer one is none. -/
def decodeTableWord (nbits w : Nat) : Option Instr :=
  if nbits ≤ 40 then
    match decode Params.standard (BitVec.ofNat 40 (w % 2 ^ nbits)) with
    | .instr i => some i
    | .rejected _ => none
  else none

end Sys2Proof
end

