-- ==== Sys2Proof/Machine/State.lean ====
section
/-! DEFINITION. The state of the machine (10_state.md R20 to R33): the block, and beside it what R31 keeps outside the
block's state record, namely the parameters of the instance and the host. The reasons a step can stop. Reset. -/

namespace Sys2Proof.Machine

open Sys2Proof

/-- A byte space (20_memory.md R50): the valid bytes from offset 0 on, so the byte at offset `a` is the `a`-th entry and
the space's current length is the list's. An offset at or above that length holds no value (R33, 93 U4, U8).
00_scope.md R6: "a model may hold each buffer as a finite byte list". Equal memories are equal lists (log 3). -/
abbrev Memory := List Byte

/-- The canonical form of a space of capacity `cap`: a list has no gaps and no repeats by construction, so what remains
is that it fits (00_scope.md R6). -/
def Memory.wf (cap : Nat) (m : Memory) : Bool := m.length ≤ cap

/-- The space as address and byte pairs, offset 0 first. -/
def Memory.cells (m : Memory) : List Host.Cell := m.zipIdx.map fun x => (x.2, x.1)

/-- Four bytes in wire order, `b0` the lowest offset: the value of a chunk-type register (10_state.md R23, 20_memory.md
R53). -/
structure TypeCode where
  b0 : Byte
  b1 : Byte
  b2 : Byte
  b3 : Byte
  deriving DecidableEq, Repr

/-- The value of the chunk register `CK` (10_state.md R24, 42_chunk_framer.md R150). -/
structure Chunk where
  /-- `CK.LEN` -/
  len : Word
  /-- `CK.TYPE[0..4)` -/
  typ : TypeCode
  /-- `CK.DATA[0..CK.LEN)` -/
  data : Memory
  /-- `CK.CRC` -/
  crc : Word
  deriving DecidableEq, Repr

/-- The whole architectural state of the block, "and nothing else" (10_state.md R20).

`ty` is `TY` with its valid bit: `some t` is `TYV = 1` and `TY = t`, `none` is `TYV = 0`, when "the bytes of `TY` have no
meaning and no command reads them" (R23). `ck` is the four fields of `CK` with `CK.V` in the same way (R24). R33: "A
model should represent an "unspecified" register as holding no value, not as zero." DESIGN CHOICE, safe (log 2). -/
structure Block where
  /-- `ACC` -/
  acc : Word
  /-- `RES` -/
  res : Word
  /-- `TYV` and `TY` -/
  ty : Option TypeCode
  /-- `CK.V` and `CK.LEN`, `CK.TYPE`, `CK.DATA`, `CK.CRC` -/
  ck : Option Chunk
  /-- `ST.ERR` -/
  stErr : BitVec 4
  /-- `ST.EXP` -/
  stExp : Word
  /-- `ST.FND` -/
  stFnd : Word
  /-- `IBUF[0..ILEN)`; `ILEN` is its length -/
  ibuf : Memory
  /-- `OBUF[0..OLEN)`; `OLEN` is its length -/
  obuf : Memory
  deriving DecidableEq, Repr

/-- What the host can read (10_state.md R32, 20_memory.md R61): `OBUF[0..OLEN)` carries `OLEN` as its length. -/
structure HostView where
  res : Word
  stErr : BitVec 4
  stExp : Word
  stFnd : Word
  obuf : Memory
  deriving DecidableEq, Repr

/-- One read of the host on the way (70_reset_and_hazards.md R232). -/
inductive HostRead where
  /-- A read move: all that the host can read (20_memory.md R61). -/
  | all (v : HostView)
  /-- The read inside a copy: "the host reads `OBUF[0..OLEN)` (rule R61)" (20_memory.md R63). -/
  | output (obuf : Memory)
  deriving DecidableEq, Repr

/-- The machine: the block (R20) and, outside the block's state record (R31), the instance's parameters and the host.

`moves` and `seen` are the model's own: the host's moves still to come, in order, and "everything it read on the way",
oldest first (70_reset_and_hazards.md R232). DESIGN CHOICE, safe (log 1, log 4, log 5). -/
structure State extends Block where
  cfg : Params
  moves : List HostMove
  seen : List HostRead
  deriving DecidableEq, Repr

/-- The error kinds (60_exceptions.md R190). -/
inductive ErrorKind where
  /-- code 1 (R191) -/
  | invalidTypeByte
  /-- code 2 (R192) -/
  | wrongLength
  /-- code 3 (R199) -/
  | nonAscii
  /-- code 4 (R194) -/
  | lengthTooLarge
  /-- code 5 (R193) -/
  | truncated
  /-- code 6 (R195), with the computed and the stored CRC -/
  | checksumMismatch (expected found : Word)
  /-- code 7 (R198) -/
  | invalidUtf8
  /-- code 8 (R196) -/
  | noValue
  deriving DecidableEq, Repr

/-- The value register that a command constructs, if any (60_exceptions.md R197 item 2): CT.FROMB and CT.FROMS fill `TY`,
CH.PARSE fills `CK`. -/
inductive Dest where
  | nothing
  | ty
  | ck
  deriving DecidableEq, Repr

/-- Faults. There are none: no access can leave a buffer (20_memory.md R52), none can be misaligned (R55) or forbidden
(R57), and an error is an ordinary result (60_exceptions.md R203, R204). -/
inductive Fault where
  deriving DecidableEq, Repr

/-- Refusals: words and moves to which the spec gives no behaviour (60_exceptions.md R209). -/
inductive Refusal where
  /-- An instruction without a meaning yet. Raised by `exec` only. Safe. -/
  | notModelled (mnemonic : String)
  /-- A reserved command word (30_encoding.md R85, R86; 93 U1, U2). Raised by the issue move. Safe: nothing can be proved
  of what follows. -/
  | reservedWord (r : Reject)
  /-- A text command in an instance with `TEXT_OPS = false` (30_encoding.md R85). Raised by CT.FROMS, CT.DISP and CH.TEXT.
  DESIGN CHOICE, safe (log 14). -/
  | textOpAbsent
  /-- CH.NEW with `ILEN > 2^31 - 1` (42_chunk_framer.md R153; 93 U5). Safe. -/
  | payloadTooLong
  /-- CH.NEW with `ILEN > DCAP` or CH.PARSE with a decoded length above `DCAP` (42_chunk_framer.md R153, R156; 93 U6).
  Safe. -/
  | storeTooSmall
  /-- A write of more than `ICAP` bytes, a move the host does not have (20_memory.md R60). Raised by the write and loop
  moves.
  DESIGN CHOICE, safe (log 13). -/
  | inputTooLong
  deriving DecidableEq, Repr

/-- The block after reset (10_state.md R33, 70_reset_and_hazards.md R220). -/
def Block.reset : Block where
  acc := 0xFFFFFFFF#32
  res := 0x00000000#32
  ty := none
  ck := none
  stErr := 0#4
  stExp := 0x00000000#32
  stFnd := 0x00000000#32
  ibuf := []
  obuf := []

/-- The machine right after reset: an instance with the default parameters of 00_scope.md R6, the block as R33 says, and
a host that has neither moved nor read. -/
def State.reset : State where
  toBlock := Block.reset
  cfg := Params.standard
  moves := []
  seen := []

end Sys2Proof.Machine
end

