-- ==== Sys2Proof/Machine/Ops.lean ====
section
/-! DEFINITION. The shared operations: reading the byte spaces, big-endian packing, success, raising an error (the block's
only exception), and the guards that several commands share. -/

namespace Sys2Proof.Machine

open Sys2Proof

/-- The three address spaces (20_memory.md R50). -/
inductive Space where
  | ibuf
  | obuf
  | ckData
  deriving DecidableEq, Repr

/-- `ILEN` (10_state.md R29). -/
def Block.ilen (b : Block) : Nat := b.ibuf.length

/-- `OLEN` (10_state.md R30). -/
def Block.olen (b : Block) : Nat := b.obuf.length

/-- The contents of a space; while `CK.V = 0` no offset of `CK.DATA` is valid (20_memory.md R50). -/
def Block.space (b : Block) : Space → Memory
  | .ibuf => b.ibuf
  | .obuf => b.obuf
  | .ckData => match b.ck with
    | some c => c.data
    | none => []

/-- One byte of a space, by offset: no value at an offset that is not valid. -/
def Block.byteAt (b : Block) (sp : Space) (a : Nat) : Option Byte := (b.space sp)[a]?

/-- `MemRead(SPACE, off, n)`: the bytes `SPACE[off..off+n)` (00_scope.md R9, R11). Every caller has established
`off + n <= |SPACE|` (20_memory.md R52), where the result has exactly `n` bytes. -/
def memRead (m : Memory) (off n : Nat) : List Byte := (m.drop off).take n

/-- The byte at a valid offset. The zero for other offsets is never used: every caller has established that the offset is
valid (20_memory.md R52). DESIGN CHOICE, safe (log 11). -/
def memByte (m : Memory) (off : Nat) : Byte := m.getD off 0#8

/-- `be32(b0, b1, b2, b3) = b0 * 2^24 + b1 * 2^16 + b2 * 2^8 + b3` (00_scope.md R10). -/
def be32 (b0 b1 b2 b3 : Byte) : Word := b0 ++ b1 ++ b2 ++ b3

/-- `be32_bytes(v)`: `v[31:24], v[23:16], v[15:8], v[7:0]` (00_scope.md R10). -/
def be32Bytes (v : Word) : List Byte :=
  [v.extractLsb' 24 8, v.extractLsb' 16 8, v.extractLsb' 8 8, v.extractLsb' 0 8]

/-- The big-endian field at offset `off` (20_memory.md R53). -/
def be32At (m : Memory) (off : Nat) : Word :=
  be32 (memByte m off) (memByte m (off + 1)) (memByte m (off + 2)) (memByte m (off + 3))

/-- A truth value as the word a predicate command returns: 1 or 0 (30_encoding.md R83). -/
def boolWord (b : Bool) : Word := if b then 1#32 else 0#32

/-- The code an error kind writes to `ST.ERR` (60_exceptions.md R190). -/
def ErrorKind.code : ErrorKind → BitVec 4
  | .invalidTypeByte => 1#4
  | .wrongLength => 2#4
  | .nonAscii => 3#4
  | .lengthTooLarge => 4#4
  | .truncated => 5#4
  | .checksumMismatch _ _ => 6#4
  | .invalidUtf8 => 7#4
  | .noValue => 8#4

/-- The kinds that clear the valid bit of a failed constructor's destination: codes 1 to 6 (60_exceptions.md R197 item
2). -/
def ErrorKind.clears : ErrorKind → Bool
  | .invalidTypeByte | .wrongLength | .nonAscii | .lengthTooLarge | .truncated | .checksumMismatch _ _ => true
  | .invalidUtf8 | .noValue => false

/-- The state after an error: `ST.ERR`, the valid bit of the destination, `ST.EXP` and `ST.FND` on a checksum mismatch,
and nothing else (60_exceptions.md R197). -/
def raised (d : Dest) (e : ErrorKind) (s : State) : State :=
  { s with
    stErr := e.code
    ty := if d = .ty ∧ e.clears = true then none else s.ty
    ck := if d = .ck ∧ e.clears = true then none else s.ck
    stExp := match e with
      | .checksumMismatch x _ => x
      | _ => s.stExp
    stFnd := match e with
      | .checksumMismatch _ f => f
      | _ => s.stFnd }

/-- `raise <Kind>`: the command ends at once with the effects of R197. This is the whole of taking an exception: "There is
no trap entry: no mode change, no saved program counter, no vector" (60_exceptions.md R203), and "There is no return
instruction and nothing to restore" (R204): the next command runs as after a success. -/
def raise (d : Dest) (e : ErrorKind) (s : State) : Host.Outcome State Fault Refusal := .next (raised d e s)

/-- A command that succeeds sets `ST.ERR <- 0` beside its own writes (60_exceptions.md R197). -/
def succeed (s : State) : Host.Outcome State Fault Refusal := .next { s with stErr := 0#4 }

/-- A command that needs a chunk type: `NoValue` when `TYV = 0`, before anything else (60_exceptions.md R196, R202). -/
def withType (s : State) (k : TypeCode → Host.Outcome State Fault Refusal) : Host.Outcome State Fault Refusal :=
  match s.ty with
  | some t => k t
  | none => raise .nothing .noValue s

/-- A command that needs a chunk: `NoValue` when `CK.V = 0`, before anything else (60_exceptions.md R196, R202). -/
def withChunk (s : State) (k : Chunk → Host.Outcome State Fault Refusal) : Host.Outcome State Fault Refusal :=
  match s.ck with
  | some c => k c
  | none => raise .nothing .noValue s

/-- A text command exists only when `TEXT_OPS = true`; otherwise its code is reserved and has no behaviour (30_encoding.md
R85). -/
def withTextOps (s : State) (k : Host.Outcome State Fault Refusal) : Host.Outcome State Fault Refusal :=
  if s.cfg.textOps then k else .refused .textOpAbsent

/-- Return a scalar in `RES` (10_state.md R21). -/
def returnWord (v : Word) (s : State) : Host.Outcome State Fault Refusal := succeed { s with res := v }

/-- Return a byte sequence: `OBUF[0..n)` and `OLEN <- n` together; the bytes above are unspecified from then on, so none is
held (10_state.md R30). -/
def returnBytes (bs : List Byte) (s : State) : Host.Outcome State Fault Refusal := succeed { s with obuf := bs }

end Sys2Proof.Machine
end

