-- ==== Sys2Proof/Machine/Flags.lean ====
section
/-! DEFINITION. The two stored flags (10_state.md R26), the validity test of a type byte and the four predicates of bit 5
(41_chunk_type.md R120 to R124), and their packing (R133). -/

namespace Sys2Proof.Machine

open Sys2Proof

/-- `TYV` (10_state.md R23). -/
def Block.tyv (b : Block) : Bool := b.ty.isSome

/-- `CK.V` (10_state.md R24). -/
def Block.ckv (b : Block) : Bool := b.ck.isSome

/-- `is_alpha(b)` (00_scope.md R11, 41_chunk_type.md R120). -/
def isAlpha (b : Byte) : Bool :=
  (0x41 ≤ b.toNat && b.toNat ≤ 0x5A) || (0x61 ≤ b.toNat && b.toNat ≤ 0x7A)

/-- The four bytes as a byte sequence, type byte 0 first. -/
def TypeCode.bytes (t : TypeCode) : List Byte := [t.b0, t.b1, t.b2, t.b3]

/-- The construction invariant of a chunk type: every byte is ASCII alphabetic (R120). -/
def TypeCode.alpha (t : TypeCode) : Bool := isAlpha t.b0 && isAlpha t.b1 && isAlpha t.b2 && isAlpha t.b3

/-- Bit 5 of a byte, value 0x20 (00_scope.md R8): set means lower-case (30_encoding.md R82). -/
def bit5 (b : Byte) : Bool := b.getLsbD 5

/-- R121: byte 0 upper-case. -/
def isCritical (t : TypeCode) : Bool := !bit5 t.b0

/-- R122: byte 1 upper-case. -/
def isPublic (t : TypeCode) : Bool := !bit5 t.b1

/-- R123: byte 2 upper-case. -/
def isReservedBitValid (t : TypeCode) : Bool := !bit5 t.b2

/-- R124: byte 3 LOWER-case, the opposite sense of the other three (90_conflicts.md C3). -/
def isSafeToCopy (t : TypeCode) : Bool := bit5 t.b3

/-- The four predicates in bits 3 to 0, bit `i` for type byte `i` (R133). -/
def flagsWord (t : TypeCode) : Word :=
  0#28 ++ BitVec.ofBool (isSafeToCopy t) ++ BitVec.ofBool (isReservedBitValid t) ++ BitVec.ofBool (isPublic t) ++
    BitVec.ofBool (isCritical t)

end Sys2Proof.Machine
end

