-- ==== Sys2Proof/Machine/Operands.lean ====
section
/-! DEFINITION. The operand forms (30_encoding.md R73 to R75, 20_memory.md R51, R56): the immediate of CT.FROMB, the whole
input buffer, and the fields of a record at fixed or computed offsets. -/

namespace Sys2Proof.Machine

open Sys2Proof

/-- `IBUF[0..ILEN)`, the message, text or payload operand (20_memory.md R56). -/
def inputBytes (s : State) : List Byte := memRead s.ibuf 0 s.ilen

/-- Four type bytes at offset `off` of a space, in wire order (30_encoding.md R78). -/
def typeAt (m : Memory) (off : Nat) : TypeCode :=
  ⟨memByte m off, memByte m (off + 1), memByte m (off + 2), memByte m (off + 3)⟩

/-- Offset of the `length` field (30_encoding.md R76). -/
def offLength : Nat := 0

/-- Offset of the `chunk_type` field (30_encoding.md R76). -/
def offType : Nat := 4

/-- Offset of the `data` field (30_encoding.md R76). -/
def offData : Nat := 8

/-- Offset of the `crc` field of a record with `len` payload bytes (30_encoding.md R76). -/
def offCrc (len : Nat) : Nat := 8 + len

/-- Bytes of a record with `len` payload bytes (30_encoding.md R76, R81). -/
def recordSize (len : Nat) : Nat := 12 + len

/-- Some byte of the text operand is outside ASCII (41_chunk_type.md R126). -/
def TypeCode.nonAscii (t : TypeCode) : Bool :=
  0x80 ≤ t.b0.toNat || 0x80 ≤ t.b1.toNat || 0x80 ≤ t.b2.toNat || 0x80 ≤ t.b3.toNat

end Sys2Proof.Machine
end

