-- ==== Sys2Proof/Machine/Utf8.lean ====
section
/-! DEFINITION. `utf8_valid` (42_chunk_framer.md R172), as a walk over the bytes that remembers what the pattern begun
still asks for. -/

namespace Sys2Proof.Machine

open Sys2Proof

/-- A closed range of byte values. -/
structure ByteRange where
  lo : Nat
  hi : Nat
  deriving DecidableEq, Repr

/-- The byte lies in the range. -/
def ByteRange.has (r : ByteRange) (b : Byte) : Bool := r.lo ≤ b.toNat && b.toNat ≤ r.hi

/-- The table of R172: each row the ranges of the bytes of one encoded character. PRESUMED by the spec itself ("from
general knowledge, not in source", 93 G3; log 12). -/
def utf8Rows : List (List ByteRange) :=
  [ [⟨0x00, 0x7F⟩],
    [⟨0xC2, 0xDF⟩, ⟨0x80, 0xBF⟩],
    [⟨0xE0, 0xE0⟩, ⟨0xA0, 0xBF⟩, ⟨0x80, 0xBF⟩],
    [⟨0xE1, 0xEC⟩, ⟨0x80, 0xBF⟩, ⟨0x80, 0xBF⟩],
    [⟨0xED, 0xED⟩, ⟨0x80, 0x9F⟩, ⟨0x80, 0xBF⟩],
    [⟨0xEE, 0xEF⟩, ⟨0x80, 0xBF⟩, ⟨0x80, 0xBF⟩],
    [⟨0xF0, 0xF0⟩, ⟨0x90, 0xBF⟩, ⟨0x80, 0xBF⟩, ⟨0x80, 0xBF⟩],
    [⟨0xF1, 0xF3⟩, ⟨0x80, 0xBF⟩, ⟨0x80, 0xBF⟩, ⟨0x80, 0xBF⟩],
    [⟨0xF4, 0xF4⟩, ⟨0x80, 0x8F⟩, ⟨0x80, 0xBF⟩, ⟨0x80, 0xBF⟩] ]

/-- The ranges still owed after a first byte: those of the row whose first range has it, if there is one. -/
def utf8Start (b : Byte) : List (List ByteRange) → Option (List ByteRange)
  | [] => none
  | [] :: rows => utf8Start b rows
  | (r :: rest) :: rows => if r.has b then some rest else utf8Start b rows

/-- The ranges still owed after one more byte; `none` when the byte fits no pattern here. -/
def utf8Next (owed : List ByteRange) (b : Byte) : Option (List ByteRange) :=
  match owed with
  | [] => utf8Start b utf8Rows
  | r :: rest => if r.has b then some rest else none

/-- Every byte fits, and the sequence does not end in the middle of a pattern. -/
def utf8Walk : List ByteRange → List Byte → Bool
  | owed, [] => owed.isEmpty
  | owed, b :: bs =>
    match utf8Next owed b with
    | some owed' => utf8Walk owed' bs
    | none => false

/-- `utf8_valid(s)` (R172). -/
def utf8Valid (s : List Byte) : Bool := utf8Walk [] s

end Sys2Proof.Machine
end

