-- ==== Sys2Proof/Machine/ChunkUnit.lean ====
section
/-! DEFINITION. The chunk parser and framer's commands (42_chunk_framer.md R150 to R170). Their CRC accumulator is private
to the command: none of them reads or writes `ACC` (R151). -/

namespace Sys2Proof.Machine

open Sys2Proof

/-- The chunk of a type and a payload of at most 2^31 - 1 bytes, its CRC taken over type and payload (R152). -/
def makeChunk (t : TypeCode) (p : List Byte) : Chunk := ⟨BitVec.ofNat 32 p.length, t, p, crc32 (t.bytes ++ p)⟩

/-- CH.NEW (R152): `NoValue` first (60_exceptions.md R202), then the host's two preconditions (R153). -/
def execChNew (s : State) : Host.Outcome State Fault Refusal :=
  withType s fun t =>
    if lenMax < s.ilen then .refused .payloadTooLong
    else if s.cfg.dcap < s.ilen then .refused .storeTooSmall
    else succeed { s with ck := some (makeChunk t (inputBytes s)) }

/-- Steps 5 to 10 of CH.PARSE (R155) on a buffer known to hold a whole record with `len` payload bytes. -/
def parseRecord (len : Word) (s : State) : Host.Outcome State Fault Refusal :=
  let t := typeAt s.ibuf offType
  let d := memRead s.ibuf offData len.toNat
  let f := be32At s.ibuf (offCrc len.toNat)
  let e := crc32 (memRead s.ibuf offType (4 + len.toNat))
  if t.alpha = false then raise .ck .invalidTypeByte s
  else if e ≠ f then raise .ck (.checksumMismatch e f) s
  else succeed { s with ck := some ⟨len, t, d, f⟩ }

/-- CH.PARSE (R155), the source's steps in their order; trailing bytes are never read (R157), the reserved bit is not
checked (R158). -/
def execChParse (s : State) : Host.Outcome State Fault Refusal :=
  if s.ilen < 12 then raise .ck .truncated s
  else
    let len := be32At s.ibuf offLength
    if lenMax < len.toNat then raise .ck .lengthTooLarge s
    else if s.cfg.dcap < len.toNat then .refused .storeTooSmall
    else if s.ilen < recordSize len.toNat then raise .ck .truncated s
    else parseRecord len s

/-- CH.LEN (R160). -/
def execChLen (s : State) : Host.Outcome State Fault Refusal := withChunk s fun c => returnWord c.len s

/-- CH.TYPE (R161): returned through `TY`. -/
def execChType (s : State) : Host.Outcome State Fault Refusal :=
  withChunk s fun c => succeed { s with ty := some c.typ }

/-- The payload, `MemRead(CK.DATA, 0, CK.LEN)`. -/
def Chunk.payload (c : Chunk) : List Byte := memRead c.data 0 c.len.toNat

/-- CH.DATA (R163). -/
def execChData (s : State) : Host.Outcome State Fault Refusal := withChunk s fun c => returnBytes c.payload s

/-- CH.CRC (R162): the stored field. -/
def execChCrc (s : State) : Host.Outcome State Fault Refusal := withChunk s fun c => returnWord c.crc s

/-- CH.SIZE (R164): `12 + CK.LEN`, which cannot wrap on a held chunk (00_scope.md R12). -/
def execChSize (s : State) : Host.Outcome State Fault Refusal := withChunk s fun c => returnWord (12#32 + c.len) s

/-- The wire format `length ‖ type ‖ data ‖ crc` (30_encoding.md R76, R167); the CRC is the stored one. -/
def Chunk.wire (c : Chunk) : List Byte := be32Bytes c.len ++ c.typ.bytes ++ c.payload ++ be32Bytes c.crc

/-- CH.EMIT (R167). -/
def execChEmit (s : State) : Host.Outcome State Fault Refusal := withChunk s fun c => returnBytes c.wire s

/-- CH.TEXT (R170): the payload bytes when they are valid UTF-8; `InvalidUtf8` leaves the chunk held (60_exceptions.md
R198). -/
def execChText (s : State) : Host.Outcome State Fault Refusal :=
  withTextOps s <| withChunk s fun c =>
    if utf8Valid c.payload then returnBytes c.payload s else raise .nothing .invalidUtf8 s

end Sys2Proof.Machine
end

