-- ==== Sys2Proof/Machine/CrcUnit.lean ====
section
/-! DEFINITION. The CRC generator's commands (40_crc_generator.md R105 to R110). None of them can fail. -/

namespace Sys2Proof.Machine

open Sys2Proof

/-- CRC.INIT (R105). -/
def execCrcInit (s : State) : Host.Outcome State Fault Refusal := succeed { s with acc := crcInitial }

/-- CRC.BYTE (R106). -/
def execCrcByte (b : Byte) (s : State) : Host.Outcome State Fault Refusal := succeed { s with acc := crcStep s.acc b }

/-- CRC.BUF (R107): it continues from whatever `ACC` holds. -/
def execCrcBuf (s : State) : Host.Outcome State Fault Refusal := succeed { s with acc := crcAcc s.acc (inputBytes s) }

/-- CRC.READ (R108): `ACC` keeps its value. -/
def execCrcRead (s : State) : Host.Outcome State Fault Refusal := returnWord (s.acc ^^^ crcFinalXor) s

/-- CRC.SUM (R109): the previous `ACC` is ignored and overwritten. -/
def execCrcSum (s : State) : Host.Outcome State Fault Refusal :=
  returnWord (crcAcc crcInitial (inputBytes s) ^^^ crcFinalXor) { s with acc := crcAcc crcInitial (inputBytes s) }

end Sys2Proof.Machine
end

