-- ==== Sys2Proof/Machine/TypeUnit.lean ====
section
/-! DEFINITION. The chunk-type unit's commands (41_chunk_type.md R125 to R134). -/

namespace Sys2Proof.Machine

open Sys2Proof

/-- Make a chunk type of four bytes (`from_bytes`, R125): CT.FROMB's whole effect and the end of CT.FROMS, which "delegates
to `from_bytes` after conversion" (R126). The reserved bit is not looked at (R138). -/
def makeType (t : TypeCode) (s : State) : Host.Outcome State Fault Refusal :=
  if t.alpha then succeed { s with ty := some t } else raise .ty .invalidTypeByte s

/-- CT.FROMB (R125). -/
def execCtFromb (b0 b1 b2 b3 : Byte) (s : State) : Host.Outcome State Fault Refusal := makeType ⟨b0, b1, b2, b3⟩ s

/-- CT.FROMS (R126), its checks in the order of 60_exceptions.md R201. -/
def execCtFroms (s : State) : Host.Outcome State Fault Refusal :=
  withTextOps s <|
    if s.ilen ≠ 4 then raise .ty .wrongLength s
    else if (typeAt s.ibuf 0).nonAscii then raise .ty .nonAscii s
    else makeType (typeAt s.ibuf 0) s

/-- CT.BYTES (R127). -/
def execCtBytes (s : State) : Host.Outcome State Fault Refusal := withType s fun t => returnBytes t.bytes s

/-- CT.DISP (R128): the text of a valid type is its four bytes. -/
def execCtDisp (s : State) : Host.Outcome State Fault Refusal :=
  withTextOps s <| withType s fun t => returnBytes t.bytes s

/-- CT.CRIT (R129). -/
def execCtCrit (s : State) : Host.Outcome State Fault Refusal :=
  withType s fun t => returnWord (boolWord (isCritical t)) s

/-- CT.PUB (R130). -/
def execCtPub (s : State) : Host.Outcome State Fault Refusal :=
  withType s fun t => returnWord (boolWord (isPublic t)) s

/-- CT.RSV (R131). -/
def execCtRsv (s : State) : Host.Outcome State Fault Refusal :=
  withType s fun t => returnWord (boolWord (isReservedBitValid t)) s

/-- CT.SAFE (R132). -/
def execCtSafe (s : State) : Host.Outcome State Fault Refusal :=
  withType s fun t => returnWord (boolWord (isSafeToCopy t)) s

/-- CT.FLAGS (R133). -/
def execCtFlags (s : State) : Host.Outcome State Fault Refusal := withType s fun t => returnWord (flagsWord t) s

/-- CT.EQ (R134, R135): byte for byte, case-sensitive. -/
def execCtEq (s : State) : Host.Outcome State Fault Refusal :=
  withType s fun t => withChunk s fun c => returnWord (boolWord (decide (t = c.typ))) s

end Sys2Proof.Machine
end

