-- ==== Sys2Proof/Machine/Dispatch.lean ====
section
/-! DEFINITION. One arm per command: each calls its meaning. -/

namespace Sys2Proof.Machine

open Sys2Proof

def exec (i : Instr) (s : State) : Host.Outcome State Fault Refusal :=
  match i with
  | .crcInit => Sys2Proof.Machine.execCrcInit s
  | .crcByte b => Sys2Proof.Machine.execCrcByte b s
  | .crcBuf => Sys2Proof.Machine.execCrcBuf s
  | .crcRead => Sys2Proof.Machine.execCrcRead s
  | .crcSum => Sys2Proof.Machine.execCrcSum s
  | .ctFromb b0 b1 b2 b3 => Sys2Proof.Machine.execCtFromb b0 b1 b2 b3 s
  | .ctFroms => Sys2Proof.Machine.execCtFroms s
  | .ctBytes => Sys2Proof.Machine.execCtBytes s
  | .ctDisp => Sys2Proof.Machine.execCtDisp s
  | .ctCrit => Sys2Proof.Machine.execCtCrit s
  | .ctPub => Sys2Proof.Machine.execCtPub s
  | .ctRsv => Sys2Proof.Machine.execCtRsv s
  | .ctSafe => Sys2Proof.Machine.execCtSafe s
  | .ctFlags => Sys2Proof.Machine.execCtFlags s
  | .ctEq => Sys2Proof.Machine.execCtEq s
  | .chNew => Sys2Proof.Machine.execChNew s
  | .chParse => Sys2Proof.Machine.execChParse s
  | .chLen => Sys2Proof.Machine.execChLen s
  | .chType => Sys2Proof.Machine.execChType s
  | .chData => Sys2Proof.Machine.execChData s
  | .chCrc => Sys2Proof.Machine.execChCrc s
  | .chSize => Sys2Proof.Machine.execChSize s
  | .chEmit => Sys2Proof.Machine.execChEmit s
  | .chText => Sys2Proof.Machine.execChText s

end Sys2Proof.Machine
end

