-- ==== Sys2Proof/Machine/HostPort.lean ====
section
/-! DEFINITION. The host's moves (20_memory.md R60 to R63, 70_reset_and_hazards.md R220), each on a machine from whose list
the move has been taken. -/

namespace Sys2Proof.Machine

open Sys2Proof

/-- Write `IBUF[0..n)` and `ILEN <- n`, `n <= ICAP` (20_memory.md R60); nothing else is written. -/
def hostWrite (bytes : List Byte) (s : State) : Host.Outcome State Fault Refusal :=
  if bytes.length ≤ s.cfg.icap then .next { s with ibuf := bytes } else .refused .inputTooLong

/-- The machine after one more read of the host (70_reset_and_hazards.md R232); "Reading changes nothing" of the block
(20_memory.md R61). -/
def State.noteRead (r : HostRead) (s : State) : State := { s with seen := s.seen ++ [r] }

/-- The copy: "the host reads `OBUF[0..OLEN)` (rule R61) and writes the same bytes and length to `IBUF`, `ILEN` (rule
R60)" (20_memory.md R63). -/
def hostLoop (s : State) : Host.Outcome State Fault Refusal := hostWrite s.obuf (s.noteRead (.output s.obuf))

/-- What the host can read (10_state.md R32). -/
def Block.view (b : Block) : HostView := ⟨b.res, b.stErr, b.stExp, b.stFnd, b.obuf⟩

/-- Read all that the host can read (20_memory.md R61). -/
def hostRead (s : State) : Host.Outcome State Fault Refusal := .next (s.noteRead (.all s.view))

/-- Reset: every piece of the block's state to the value of 10_state.md R33, "regardless of what came before"
(70_reset_and_hazards.md R220, R221). -/
def hostReset (s : State) : Host.Outcome State Fault Refusal := .next { s with toBlock := Block.reset }

/-- Issue one command word: the whole word is sampled, decoded and executed (20_memory.md R62, 30_encoding.md R84); "the
decoder's verdict is "invalid" and no step is taken" on a reserved word (R85). -/
def hostIssue (w : CmdWord) (s : State) : Host.Outcome State Fault Refusal :=
  match decode s.cfg w with
  | .instr i => exec i s
  | .rejected r => .refused (.reservedWord r)

/-- One move of the host. -/
def hostMove (m : HostMove) (s : State) : Host.Outcome State Fault Refusal :=
  match m with
  | .write bytes => hostWrite bytes s
  | .loop => hostLoop s
  | .read => hostRead s
  | .reset => hostReset s
  | .issue w => hostIssue w s

end Sys2Proof.Machine
end

