-- ==== Sys2Proof/Machine/Step.lean ====
section
/-! DEFINITION. One step: the host's next move, taken from its list (20_memory.md R58). -/

namespace Sys2Proof.Machine

open Sys2Proof

/-- The next move of the host, "one after another, to completion". When the list is exhausted the run has ended
(70_reset_and_hazards.md R232) and nothing happens. DESIGN CHOICE, safe (log 7). -/
def step (s : State) : Host.Outcome State Fault Refusal :=
  match s.moves with
  | [] => .next s
  | m :: rest => hostMove m { s with moves := rest }

/-- The machine whose host issues the given command word next: the block has no instruction memory (10_state.md R22), a
step fetches the word from the host's list (20_memory.md R62). -/
def State.withFetchWord (s : State) (nbits w : Nat) : State :=
  { s with moves := .issue (BitVec.ofNat 40 (w % 2 ^ nbits)) :: s.moves }

end Sys2Proof.Machine
end

