-- ==== Sys2Proof/Machine/Asm.lean ====
section
/-! DEFINITION. The assembler of 30_encoding.md R88 to R90: what a line stands for, how an `.expect` compares, and reading
a line of text. -/

namespace Sys2Proof.Machine

open Sys2Proof

/-- The host moves a line assembles to. A directive assembles to no command word (R89); the pseudo-instruction expands to
one CRC.BYTE for each byte, in order, and to nothing without operands (R90). -/
def assembleLine : Line → List HostMove
  | .cmd i => [.issue (encode i)]
  | .ibuf bytes => [.write bytes]
  | .loop => [.loop]
  | .expect _ => [.read]
  | .reset => [.reset]
  | .crcBytes bytes => bytes.map fun b => .issue (encode (.crcByte b))

/-- A listing, one line after another. -/
def assemble (ls : List Line) : List HostMove := ls.flatMap assembleLine

/-- "a host read compared with a value" (R89): the value read is the one expected. -/
def expectHolds (e : Expect) (v : HostView) : Bool :=
  match e.reg, e.value with
  | .res, .num n => v.res.toNat == n
  | .stErr, .num n => v.stErr.toNat == n
  | .stExp, .num n => v.stExp.toNat == n
  | .stFnd, .num n => v.stFnd.toNat == n
  | .olen, .num n => v.obuf.length == n
  | .obuf, .bytes bs => v.obuf == bs
  | _, _ => false

/-- The text of a line up to its comment: "A `;` starts a comment to the end of the line" (R88), where it does not stand
inside a literal. The first argument says whether a string literal is open. DESIGN CHOICE, safe (log 15): in a
one-character literal the character may be any, the apostrophe and the quotation mark too, so `'''` is the byte 0x27
wherever it stands on the line; in a string literal it may not be the quotation mark, which ends it. -/
def stripComment : Bool → List Char → List Char
  | _, [] => []
  | true, c :: cs => c :: stripComment (c != '"') cs
  | false, '\'' :: c :: '\'' :: cs => '\'' :: c :: '\'' :: stripComment false cs
  | false, c :: cs => if c = ';' then [] else c :: stripComment (c == '"') cs

/-- Words separated by spaces and tabs; a literal is part of one word, and is read as `stripComment` reads it (log 15).
`cur` is the word being read, last character first. -/
def splitWords : Bool → List Char → List Char → List (List Char)
  | _, cur, [] => if cur.isEmpty then [] else [cur.reverse]
  | true, cur, c :: cs => splitWords (c != '"') (c :: cur) cs
  | false, cur, '\'' :: c :: '\'' :: cs => splitWords false ('\'' :: c :: '\'' :: cur) cs
  | false, cur, c :: cs =>
    if c = ' ' ∨ c = '\t' then
      (if cur.isEmpty then splitWords false [] cs else cur.reverse :: splitWords false [] cs)
    else splitWords (c == '"') (c :: cur) cs

/-- The value of a hexadecimal digit. -/
def hexDigit (c : Char) : Option Nat :=
  if '0' ≤ c ∧ c ≤ '9' then some (c.toNat - 48)
  else if 'A' ≤ c ∧ c ≤ 'F' then some (c.toNat - 55)
  else if 'a' ≤ c ∧ c ≤ 'f' then some (c.toNat - 87)
  else none

/-- Digits of a base, most significant first, after the value `acc` of the digits before. -/
def digitsFrom (base : Nat) : Nat → List Char → Option Nat
  | acc, [] => some acc
  | acc, c :: cs =>
    match hexDigit c with
    | some d => if d < base then digitsFrom base (acc * base + d) cs else none
    | none => none

/-- A number: "Hexadecimal numbers are written `0x..`; all other numerals are decimal" (00_scope.md R8). -/
def parseNum : List Char → Option Nat
  | '0' :: 'x' :: c :: cs => digitsFrom 16 0 (c :: cs)
  | c :: cs => digitsFrom 10 0 (c :: cs)
  | [] => none

/-- An ASCII character as a byte. -/
def asciiByte (c : Char) : Option Byte := if c.toNat < 128 then some (BitVec.ofNat 8 c.toNat) else none

/-- Two hexadecimal digits as a byte, as in `.ibuf 49 45` (R89). -/
def parseHexPair : List Char → Option Byte
  | [a, b] => (digitsFrom 16 0 [a, b]).map (BitVec.ofNat 8)
  | _ => none

/-- A byte operand: `0x49` or a one-character ASCII literal `'I'` (R88), of whatever character (log 15). -/
def parseByte : List Char → Option Byte
  | ['\'', c, '\''] => asciiByte c
  | '0' :: 'x' :: a :: b :: [] => parseHexPair [a, b]
  | _ => none

/-- The characters of a string literal from after its opening quotation mark to its closing one, which ends the word
(log 15). -/
def untilQuote : List Char → Option (List Char)
  | [] => none
  | ['"'] => some []
  | c :: cs => if c = '"' then none else (untilQuote cs).map (c :: ·)

/-- A string literal of ASCII characters (R88, R89). -/
def parseString : List Char → Option (List Byte)
  | '"' :: cs => (untilQuote cs).bind fun s => s.mapM asciiByte
  | _ => none

/-- A list of byte operands, possibly empty, or one string literal. DESIGN CHOICE, safe (log 9): the two are not mixed. -/
def parseBytes (byte : List Char → Option Byte) : List (List Char) → Option (List Byte)
  | [w] => match parseString w with
    | some bs => some bs
    | none => (byte w).map ([·])
  | ws => ws.mapM byte

/-- The commands without an operand, by mnemonic (R72, R88). -/
def plainCommands : List Instr :=
  [ .crcInit, .crcBuf, .crcRead, .crcSum, .ctFroms, .ctBytes, .ctDisp, .ctCrit, .ctPub, .ctRsv, .ctSafe, .ctFlags, .ctEq,
    .chNew, .chParse, .chLen, .chType, .chData, .chCrc, .chSize, .chEmit, .chText ]

/-- The host-readable register of that name (10_state.md R32). -/
def parseReg (w : List Char) : Option HostReg :=
  if w = "RES".toList then some .res
  else if w = "ST.ERR".toList then some .stErr
  else if w = "ST.EXP".toList then some .stExp
  else if w = "ST.FND".toList then some .stFnd
  else if w = "OLEN".toList then some .olen
  else if w = "OBUF".toList then some .obuf
  else none

/-- The value of an `.expect`, in the form its register asks for. DESIGN CHOICE, safe (log 9). -/
def parseExpectValue (r : HostReg) (ws : List (List Char)) : Option ExpectValue :=
  match r, ws with
  | .obuf, ws => (parseBytes parseHexPair ws).map .bytes
  | _, [w] => (parseNum w).map .num
  | _, _ => none

/-- A directive of R89. DESIGN CHOICE, safe (log 9): a bare `.ibuf`, with no operand, is read as a write of zero bytes, like
`.ibuf empty`. -/
def parseDirective (name : List Char) (ws : List (List Char)) : Option Line :=
  if name = ".ibuf".toList then
    (if ws = ["empty".toList] then some (.ibuf []) else (parseBytes parseHexPair ws).map .ibuf)
  else if name = ".loop".toList then (if ws = [] then some .loop else none)
  else if name = ".reset".toList then (if ws = [] then some .reset else none)
  else if name = ".expect".toList then
    match ws with
    | r :: ['='] :: vs => (parseReg r).bind fun reg => (parseExpectValue reg vs).map fun v => .expect ⟨reg, v⟩
    | _ => none
  else none

/-- A command of R88 or the pseudo-instruction of R90: "the mnemonic of rule R72 in upper case, then the operand if the
command has one". DESIGN CHOICE, safe (log 9): each of CT.FROMB's four byte values may also be a character literal, `'R'`
beside `0x52`, the form that R88 gives CRC.BYTE's operand; and each operand of CRC.BYTES takes either form. -/
def parseCommand (name : List Char) (ws : List (List Char)) : Option Line :=
  if name = "CRC.BYTE".toList then
    match ws with
    | [w] => (parseByte w).map fun b => .cmd (.crcByte b)
    | _ => none
  else if name = "CT.FROMB".toList then
    match parseBytes parseByte ws with
    | some [b0, b1, b2, b3] => some (.cmd (.ctFromb b0 b1 b2 b3))
    | _ => none
  else if name = "CRC.BYTES".toList then (parseBytes parseByte ws).map .crcBytes
  else if ws = [] then (plainCommands.find? fun i => i.mnemonic.toList = name).map .cmd
  else none

/-- One line of text: `some none` where it holds nothing but a comment, `none` where it is not of the syntax. -/
def parseLine (text : List Char) : Option (Option Line) :=
  match splitWords false [] (stripComment false text) with
  | [] => some none
  | name :: ws =>
    match name with
    | '.' :: _ => (parseDirective name ws).map some
    | _ => (parseCommand name ws).map some

end Sys2Proof.Machine
end

