-- ==== Sys2Proof/Safety.lean ====
section
/-! DEFINITION. What counts as a well-formed machine and a safe run, in the terms the claims use. -/

namespace Sys2Proof.Machine

open Sys2Proof

/-- The invariants of a held chunk (10_state.md R24, items 1 to 4), and that its payload fits the store (00_scope.md
R6). -/
structure Chunk.Ok (dcap : Nat) (c : Chunk) : Prop where
  len_eq : c.len.toNat = c.data.length
  crc_eq : c.crc = crc32 (c.typ.bytes ++ c.data)
  len_le : c.len.toNat ≤ lenMax
  type_alpha : c.typ.alpha = true
  data_fits : Memory.wf dcap c.data = true

/-- The invariant of the machine: legal parameters (00_scope.md R6), a valid type (10_state.md R23), a valid chunk (R24),
buffers within their capacities (00_scope.md R6), and only codes 0 to 8 in `ST.ERR` (10_state.md R27). -/
structure State.Inv (s : State) : Prop where
  params : s.cfg.wf = true
  type_alpha : ∀ t, s.ty = some t → t.alpha = true
  chunk_ok : ∀ c, s.ck = some c → c.Ok s.cfg.dcap
  input_fits : Memory.wf s.cfg.icap s.ibuf = true
  output_fits : Memory.wf s.cfg.ocap s.obuf = true
  err_code : s.stErr.toNat ≤ 8

/-- Commands one after another, each on what the one before left (20_memory.md R58). -/
def execAll : List Instr → State → Host.Outcome State Fault Refusal
  | [], s => .next s
  | i :: is, s =>
    match exec i s with
    | .next t => execAll is t
    | .fault f => .fault f
    | .refused r => .refused r

/-- `n` steps answer a state: no move on the way was refused (70_reset_and_hazards.md R232, R233). -/
def State.RunsTo (s : State) (n : Nat) (t : State) : Prop := Host.Core.run core n s = .next t

/-- The result of a run that ends here: "what the host can then read [...] together with everything it read on the way"
(70_reset_and_hazards.md R232). -/
def State.result (s : State) : HostView × List HostRead := (s.view, s.seen)

/-- What the host reads by its next move: all it can read, by a read move (20_memory.md R61), `OBUF[0..OLEN)`, by a copy
(R63), and nothing by any other move. -/
def State.readsNext (s : State) : List HostRead :=
  match s.moves with
  | .read :: _ => [.all s.view]
  | .loop :: _ => [.output s.obuf]
  | .write _ :: _ | .reset :: _ | .issue _ :: _ | [] => []

/-- The bytes fed since the last CRC.INIT, CRC.SUM or reset (40_crc_generator.md R104), after the command `i` on `s`, when
`m` were those before. -/
def fedAfter (i : Instr) (s : State) (m : List Byte) : List Byte :=
  match i with
  | .crcInit => []
  | .crcByte b => m ++ [b]
  | .crcBuf => m ++ s.ibuf
  | .crcSum => s.ibuf
  | .crcRead | .ctFromb _ _ _ _ | .ctFroms | .ctBytes | .ctDisp | .ctCrit | .ctPub | .ctRsv | .ctSafe |
    .ctFlags | .ctEq | .chNew | .chParse | .chLen | .chType | .chData | .chCrc | .chSize | .chEmit | .chText => m

/-- The same after the host's next move. -/
def fedAfterStep (s : State) (m : List Byte) : List Byte :=
  match s.moves with
  | .reset :: _ => []
  | .issue w :: _ =>
    match decode s.cfg w with
    | .instr i => fedAfter i s m
    | .rejected _ => m
  | _ => m

/-- A register of the block, as the table of 10_state.md R20 names it (a valid bit goes with its value). -/
inductive Reg where
  | acc
  | res
  | ty
  | ck
  | stErr
  | stExp
  | stFnd
  | ibuf
  | obuf
  deriving DecidableEq, Repr

/-- The register holds the same in both blocks. -/
def Block.SameReg (a b : Block) : Reg → Prop
  | .acc => a.acc = b.acc
  | .res => a.res = b.res
  | .ty => a.ty = b.ty
  | .ck => a.ck = b.ck
  | .stErr => a.stErr = b.stErr
  | .stExp => a.stExp = b.stExp
  | .stFnd => a.stFnd = b.stFnd
  | .ibuf => a.ibuf = b.ibuf
  | .obuf => a.obuf = b.obuf

end Sys2Proof.Machine

namespace Sys2Proof

open Sys2Proof.Machine

/-- The column "written by" of the table of 10_state.md R20, for commands. -/
def Instr.writes (i : Instr) : Reg → Bool
  | .acc => match i with
    | .crcInit | .crcByte _ | .crcBuf | .crcSum => true
    | .crcRead | .ctFromb _ _ _ _ | .ctFroms | .ctBytes | .ctDisp | .ctCrit | .ctPub | .ctRsv | .ctSafe |
      .ctFlags | .ctEq | .chNew | .chParse | .chLen | .chType | .chData | .chCrc | .chSize | .chEmit | .chText => false
  | .res => match i with
    | .crcRead | .crcSum | .ctCrit | .ctPub | .ctRsv | .ctSafe | .ctFlags | .ctEq | .chLen | .chCrc | .chSize => true
    | .crcInit | .crcByte _ | .crcBuf | .ctFromb _ _ _ _ | .ctFroms | .ctBytes | .ctDisp | .chNew | .chParse |
      .chType | .chData | .chEmit | .chText => false
  | .ty => match i with
    | .ctFromb _ _ _ _ | .ctFroms | .chType => true
    | .crcInit | .crcByte _ | .crcBuf | .crcRead | .crcSum | .ctBytes | .ctDisp | .ctCrit | .ctPub | .ctRsv |
      .ctSafe | .ctFlags | .ctEq | .chNew | .chParse | .chLen | .chData | .chCrc | .chSize | .chEmit | .chText => false
  | .ck => match i with
    | .chNew | .chParse => true
    | .crcInit | .crcByte _ | .crcBuf | .crcRead | .crcSum | .ctFromb _ _ _ _ | .ctFroms | .ctBytes | .ctDisp |
      .ctCrit | .ctPub | .ctRsv | .ctSafe | .ctFlags | .ctEq | .chLen | .chType | .chData | .chCrc | .chSize |
      .chEmit | .chText => false
  | .stErr => true
  | .stExp => match i with
    | .chParse => true
    | .crcInit | .crcByte _ | .crcBuf | .crcRead | .crcSum | .ctFromb _ _ _ _ | .ctFroms | .ctBytes | .ctDisp |
      .ctCrit | .ctPub | .ctRsv | .ctSafe | .ctFlags | .ctEq | .chNew | .chLen | .chType | .chData | .chCrc |
      .chSize | .chEmit | .chText => false
  | .stFnd => match i with
    | .chParse => true
    | .crcInit | .crcByte _ | .crcBuf | .crcRead | .crcSum | .ctFromb _ _ _ _ | .ctFroms | .ctBytes | .ctDisp |
      .ctCrit | .ctPub | .ctRsv | .ctSafe | .ctFlags | .ctEq | .chNew | .chLen | .chType | .chData | .chCrc |
      .chSize | .chEmit | .chText => false
  | .ibuf => false
  | .obuf => match i with
    | .ctBytes | .ctDisp | .chData | .chEmit | .chText => true
    | .crcInit | .crcByte _ | .crcBuf | .crcRead | .crcSum | .ctFromb _ _ _ _ | .ctFroms | .ctCrit | .ctPub |
      .ctRsv | .ctSafe | .ctFlags | .ctEq | .chNew | .chParse | .chLen | .chType | .chCrc | .chSize => false

/-- The value register that a command constructs, whose valid bit its error clears (60_exceptions.md R197 item 2). -/
def Instr.dest : Instr → Dest
  | .ctFromb _ _ _ _ | .ctFroms => .ty
  | .chParse => .ck
  | .crcInit | .crcByte _ | .crcBuf | .crcRead | .crcSum | .ctBytes | .ctDisp | .ctCrit | .ctPub | .ctRsv |
    .ctSafe | .ctFlags | .ctEq | .chNew | .chLen | .chType | .chData | .chCrc | .chSize | .chEmit | .chText => .nothing

/-- The commands that read `TY` and raise `NoValue` when `TYV = 0` (60_exceptions.md R190). -/
def Instr.needsType : Instr → Bool
  | .ctBytes | .ctDisp | .ctCrit | .ctPub | .ctRsv | .ctSafe | .ctFlags | .ctEq | .chNew => true
  | .crcInit | .crcByte _ | .crcBuf | .crcRead | .crcSum | .ctFromb _ _ _ _ | .ctFroms | .chParse | .chLen |
    .chType | .chData | .chCrc | .chSize | .chEmit | .chText => false

/-- The commands that read `CK` and raise `NoValue` when `CK.V = 0` (60_exceptions.md R190). -/
def Instr.needsChunk : Instr → Bool
  | .ctEq | .chLen | .chType | .chData | .chCrc | .chSize | .chEmit | .chText => true
  | .crcInit | .crcByte _ | .crcBuf | .crcRead | .crcSum | .ctFromb _ _ _ _ | .ctFroms | .ctBytes | .ctDisp |
    .ctCrit | .ctPub | .ctRsv | .ctSafe | .ctFlags | .chNew | .chParse => false

/-- The codes a command can raise: the column "raised by" of the table of 60_exceptions.md R190, read by command. -/
def Instr.raises : Instr → List (BitVec 4)
  | .crcInit | .crcByte _ | .crcBuf | .crcRead | .crcSum => []
  | .ctFromb _ _ _ _ => [1#4]
  | .ctFroms => [1#4, 2#4, 3#4]
  | .chParse => [1#4, 4#4, 5#4, 6#4]
  | .chText => [7#4, 8#4]
  | .ctBytes | .ctDisp | .ctCrit | .ctPub | .ctRsv | .ctSafe | .ctFlags | .ctEq | .chNew | .chLen | .chType | .chData |
    .chCrc | .chSize | .chEmit => [8#4]

/-- The precondition of a command, outside of which it is refused (60_exceptions.md R209): it exists in the instance, a
payload to construct from is within 2^31 - 1 and `DCAP` (42_chunk_framer.md R153), and a length to parse is within `DCAP`
(R156). -/
def Instr.Pre (i : Instr) (s : State) : Prop :=
  i.wf s.cfg = true ∧
  (i = .chNew → s.tyv = true → s.ilen ≤ lenMax ∧ s.ilen ≤ s.cfg.dcap) ∧
  (i = .chParse → 12 ≤ s.ilen → (be32At s.ibuf 0).toNat ≤ lenMax → (be32At s.ibuf 0).toNat ≤ s.cfg.dcap)

end Sys2Proof
end

