-- ==== Sys2Proof/Certificates/Slice0/Obligations.lean ====
section
/-! DEFINITION. The statements for the provers. Where a statement says `exec i s = .next { s with … }`, everything not
named after `with` is unchanged: that is the instruction's frame. -/

open Sys2Proof Sys2Proof.Machine

namespace Sys2Proof.Machine

/-- "ASCII alphabetic": in the ranges 0x41 to 0x5A or 0x61 to 0x7A (00_scope.md R14, 41_chunk_type.md R120). -/
def Letter (b : Byte) : Prop := (0x41 ≤ b.toNat ∧ b.toNat ≤ 0x5A) ∨ (0x61 ≤ b.toNat ∧ b.toNat ≤ 0x7A)

/-- The four type bytes are letters. -/
def Letters (b0 b1 b2 b3 : Byte) : Prop := Letter b0 ∧ Letter b1 ∧ Letter b2 ∧ Letter b3

/-- The number that four bytes in big-endian order stand for (00_scope.md R10). -/
def bigEndian (b0 b1 b2 b3 : Byte) : Nat := b0.toNat * 2 ^ 24 + b1.toNat * 2 ^ 16 + b2.toNat * 2 ^ 8 + b3.toNat

/-- The value with bit `j` of byte `k` inverted. -/
def flipBit (m : List Byte) (k j : Nat) : List Byte := m.modify k fun b => b ^^^ (1#8 <<< j)

/-- The bytes match the ranges, one for one. -/
def fitsRow : List Byte → List ByteRange → Prop
  | [], [] => True
  | b :: bs, r :: rs => r.has b = true ∧ fitsRow bs rs
  | _, _ => False

end Sys2Proof.Machine

/-! ### The CRC generator -/

/-- 40_crc_generator.md R105: CRC.INIT sets `ACC` to 0xFFFFFFFF and `ST.ERR` to 0, and changes nothing else. -/
def Obligations.CrcInitRestarts : Prop :=
  encode .crcInit = 0x0000000000#40 ∧
  ∀ s : State, exec .crcInit s = .next { s with acc := 0xFFFFFFFF#32, stErr := 0#4 }

/-- 40_crc_generator.md, the pseudocode of CRC.BYTE (R106): every byte is fed by one `crc_step`. Not the corner-case
sentence of R106 that every byte changes `ACC`, which the pseudocode contradicts at `ACC = 0` (log 8). -/
def Obligations.CrcByteFeedsOneByte : Prop :=
  ∀ (b : Byte) (s : State),
    (encode (.crcByte b)).toNat = 0x0100000000 + b.toNat ∧
    exec (.crcByte b) s = .next { s with acc := crcStep s.acc b, stErr := 0#4 }

/-- 40_crc_generator.md R101, R102 and section 3, which the spec marks as general knowledge: the bit-serial step and the
table form agree on every accumulator and byte, and the printed table is the one that R102 defines. -/
def Obligations.BitSerialStepIsTableStep : Prop :=
  (∀ (a : Word) (b : Byte), crcStep a b = crcStepByTable a b) ∧
  crcTable.length = 256 ∧
  ∀ n < 256, crcTable[n]? = some (crcStep 0#32 (BitVec.ofNat 8 n))

/-- 40_crc_generator.md R107: CRC.BUF continues from `ACC` over the whole input buffer. -/
def Obligations.CrcBufFeedsWholeBuffer : Prop :=
  encode .crcBuf = 0x0200000000#40 ∧
  ∀ s : State, exec .crcBuf s = .next { s with acc := crcAcc s.acc s.ibuf, stErr := 0#4 }

/-- 40_crc_generator.md R107, which the spec derives from R103 and R106: CRC.BUF is one CRC.BYTE for each byte of the
buffer, in order; and two of them compute the CRC of the concatenation. -/
def Obligations.CrcBufIsOneByteAfterAnother : Prop :=
  (∀ s : State, ∃ t, execAll (s.ibuf.map .crcByte) s = .next t ∧ exec .crcBuf s = .next { t with stErr := 0#4 }) ∧
  ∀ (s t : State) (u v : List Byte), exec .crcBuf { s with ibuf := u } = .next t →
    ∃ w, exec .crcBuf { t with ibuf := v } = .next w ∧ w.acc = crcAcc s.acc (u ++ v)

/-- 40_crc_generator.md R108: CRC.READ returns `ACC xor 0xFFFFFFFF` and leaves `ACC`. -/
def Obligations.CrcReadAppliesFinalXor : Prop :=
  encode .crcRead = 0x0300000000#40 ∧
  ∀ s : State, exec .crcRead s = .next { s with res := s.acc ^^^ 0xFFFFFFFF#32, stErr := 0#4 }

/-- 40_crc_generator.md R109, R100: CRC.SUM returns the CRC of the input buffer and leaves `ACC` before the final XOR,
whatever `ACC` was. -/
def Obligations.CrcSumReturnsTheCrc : Prop :=
  encode .crcSum = 0x0400000000#40 ∧
  ∀ s : State,
    exec .crcSum s =
      .next { s with
        acc := crcAcc 0xFFFFFFFF#32 s.ibuf, res := crcAcc 0xFFFFFFFF#32 s.ibuf ^^^ 0xFFFFFFFF#32, stErr := 0#4 }

/-- 40_crc_generator.md R109, which the spec derives: CRC.SUM equals CRC.INIT, CRC.BUF, CRC.READ in that order. -/
def Obligations.CrcSumIsInitBufRead : Prop :=
  ∀ s : State, execAll [.crcInit, .crcBuf, .crcRead] s = exec .crcSum s

/-- 40_crc_generator.md R110: no command of the family fails, reads `TY`, `TYV`, `CK` or `CK.V`, or writes `OBUF`, `OLEN`,
`ST.EXP` or `ST.FND`; each sets `ST.ERR` to 0. -/
def Obligations.CrcCommandsCannotFail : Prop :=
  ∀ (i : Instr) (s : State) (ty : Option TypeCode) (ck : Option Chunk),
    (∃ b, i = .crcByte b) ∨ i = .crcInit ∨ i = .crcBuf ∨ i = .crcRead ∨ i = .crcSum →
    ∃ t, exec i s = .next t ∧ t.stErr = 0#4 ∧ t.obuf = s.obuf ∧ t.stExp = s.stExp ∧ t.stFnd = s.stFnd ∧
      exec i { s with ty := ty, ck := ck } = .next { t with ty := ty, ck := ck }

/-- 40_crc_generator.md R111: the two vectors the source gives, "IEND" and "RuSt" with its 42 payload bytes. -/
def Obligations.CrcRequiredVectors : Prop :=
  crc32 [0x49#8, 0x45#8, 0x4E#8, 0x44#8] = 0xAE426082#32 ∧
  crc32
    [ 0x52#8, 0x75#8, 0x53#8, 0x74#8, 0x54#8, 0x68#8, 0x69#8, 0x73#8, 0x20#8, 0x69#8, 0x73#8, 0x20#8, 0x77#8, 0x68#8,
      0x65#8, 0x72#8, 0x65#8, 0x20#8, 0x79#8, 0x6F#8, 0x75#8, 0x72#8, 0x20#8, 0x73#8, 0x65#8, 0x63#8, 0x72#8, 0x65#8,
      0x74#8, 0x20#8, 0x6D#8, 0x65#8, 0x73#8, 0x73#8, 0x61#8, 0x67#8, 0x65#8, 0x20#8, 0x77#8, 0x69#8, 0x6C#8, 0x6C#8,
      0x20#8, 0x62#8, 0x65#8, 0x21#8 ] = 2882656334#32

/-- 40_crc_generator.md R104, which the spec derives: through every move of the host, `ACC` is `crc_acc(0xFFFFFFFF, m)`
for the bytes `m` fed since the last CRC.INIT, CRC.SUM or reset. -/
def Obligations.AccIsCrcOfBytesFed : Prop :=
  State.reset.acc = crcAcc 0xFFFFFFFF#32 [] ∧
  ∀ (s t : State) (m : List Byte),
    s.acc = crcAcc 0xFFFFFFFF#32 m → step s = .next t → t.acc = crcAcc 0xFFFFFFFF#32 (fedAfterStep s m)

/-- 40_crc_generator.md R112, which the spec takes from general knowledge: two messages of one length that differ in
exactly one bit have different CRCs. -/
def Obligations.CrcTellsOneFlippedBit : Prop :=
  ∀ (u v : List Byte) (b : Byte), ∀ j < 8, crc32 (u ++ b :: v) ≠ crc32 (u ++ (b ^^^ (1#8 <<< j)) :: v)

/-- 40_crc_generator.md R106 (93 G4), which the spec takes from general knowledge: for each byte, `crc_step` is a bijection
on accumulators. -/
def Obligations.CrcStepIsBijective : Prop :=
  ∀ b : Byte, Function.Bijective fun a : Word => crcStep a b

/-! ### The chunk-type unit -/

/-- 41_chunk_type.md R125: CT.FROMB holds the four bytes as a type when all are letters, and otherwise raises
InvalidTypeByte, holding none. -/
def Obligations.FromBytesValidates : Prop :=
  ∀ (b0 b1 b2 b3 : Byte) (s : State),
    (encode (.ctFromb b0 b1 b2 b3)).toNat = 0x1000000000 + bigEndian b0 b1 b2 b3 ∧
    (Letters b0 b1 b2 b3 →
      exec (.ctFromb b0 b1 b2 b3) s = .next { s with ty := some ⟨b0, b1, b2, b3⟩, stErr := 0#4 }) ∧
    (¬ Letters b0 b1 b2 b3 → exec (.ctFromb b0 b1 b2 b3) s = .next { s with ty := none, stErr := 1#4 })

/-- 41_chunk_type.md R126, 60_exceptions.md R192, R199, R201: CT.FROMS checks the length, then ASCII, then letters, and
after the first two behaves as CT.FROMB on the same four bytes. That `exec`, asked for it directly with
`TEXT_OPS = false`, refuses it by the name `textOpAbsent` is the model's choice (log 14); 30_encoding.md R85 makes its code
reserved there. -/
def Obligations.FromStringChecksInOrder : Prop :=
  encode .ctFroms = 0x1100000000#40 ∧
  ∀ s : State,
    (s.cfg.textOps = false → exec .ctFroms s = .refused .textOpAbsent) ∧
    (s.cfg.textOps = true → s.ilen ≠ 4 → exec .ctFroms s = .next { s with ty := none, stErr := 2#4 }) ∧
    ∀ b0 b1 b2 b3 : Byte, s.cfg.textOps = true → s.ibuf = [b0, b1, b2, b3] →
      ((0x80 ≤ b0.toNat ∨ 0x80 ≤ b1.toNat ∨ 0x80 ≤ b2.toNat ∨ 0x80 ≤ b3.toNat) →
        exec .ctFroms s = .next { s with ty := none, stErr := 3#4 }) ∧
      (b0.toNat < 0x80 ∧ b1.toNat < 0x80 ∧ b2.toNat < 0x80 ∧ b3.toNat < 0x80 →
        exec .ctFroms s = exec (.ctFromb b0 b1 b2 b3) s ∧
        (Letters b0 b1 b2 b3 → exec .ctFroms s = .next { s with ty := some ⟨b0, b1, b2, b3⟩, stErr := 0#4 }) ∧
        (¬ Letters b0 b1 b2 b3 → exec .ctFroms s = .next { s with ty := none, stErr := 1#4 }))

/-- 41_chunk_type.md R127, R128: CT.BYTES and CT.DISP write the four bytes to `OBUF` and 4 to `OLEN`, or raise NoValue.
That `exec`, asked for CT.DISP directly with `TEXT_OPS = false`, refuses it by the name `textOpAbsent` is the model's choice
(log 14); 30_encoding.md R85 makes its code reserved there. -/
def Obligations.TypeBytesAndDisplay : Prop :=
  encode .ctBytes = 0x1200000000#40 ∧ encode .ctDisp = 0x1300000000#40 ∧
  ∀ s : State,
    (∀ t, s.ty = some t →
      exec .ctBytes s = .next { s with obuf := [t.b0, t.b1, t.b2, t.b3], stErr := 0#4 } ∧
      (s.cfg.textOps = true → exec .ctDisp s = .next { s with obuf := [t.b0, t.b1, t.b2, t.b3], stErr := 0#4 })) ∧
    (s.ty = none →
      exec .ctBytes s = .next { s with stErr := 8#4 } ∧
      (s.cfg.textOps = true → exec .ctDisp s = .next { s with stErr := 8#4 })) ∧
    (s.cfg.textOps = false → exec .ctDisp s = .refused .textOpAbsent)

/-- 41_chunk_type.md R121 to R124, R129 to R132: the four predicate commands read bit 5, value 0x20, of one type byte each;
the first three are true on 0, the fourth on 0x20. -/
def Obligations.PredicateCommandsReadBitFive : Prop :=
  encode .ctCrit = 0x1400000000#40 ∧ encode .ctPub = 0x1500000000#40 ∧ encode .ctRsv = 0x1600000000#40 ∧
  encode .ctSafe = 0x1700000000#40 ∧
  ∀ s : State,
    (∀ t, s.ty = some t →
      exec .ctCrit s = .next { s with res := if t.b0 &&& 0x20#8 = 0x00#8 then 1#32 else 0#32, stErr := 0#4 } ∧
      exec .ctPub s = .next { s with res := if t.b1 &&& 0x20#8 = 0x00#8 then 1#32 else 0#32, stErr := 0#4 } ∧
      exec .ctRsv s = .next { s with res := if t.b2 &&& 0x20#8 = 0x00#8 then 1#32 else 0#32, stErr := 0#4 } ∧
      exec .ctSafe s = .next { s with res := if t.b3 &&& 0x20#8 = 0x20#8 then 1#32 else 0#32, stErr := 0#4 }) ∧
    (s.ty = none →
      exec .ctCrit s = .next { s with stErr := 8#4 } ∧ exec .ctPub s = .next { s with stErr := 8#4 } ∧
      exec .ctRsv s = .next { s with stErr := 8#4 } ∧ exec .ctSafe s = .next { s with stErr := 8#4 })

/-- 41_chunk_type.md R133: CT.FLAGS packs the predicate of type byte `i` into bit `i`, zero above, which is
`CRIT + 2 PUB + 4 RSV + 8 SAFE`. -/
def Obligations.FlagsPackThePredicates : Prop :=
  encode .ctFlags = 0x1800000000#40 ∧
  ∀ s : State,
    (∀ t, s.ty = some t → ∃ v : Word,
      exec .ctFlags s = .next { s with res := v, stErr := 0#4 } ∧
      v.getLsbD 0 = decide (t.b0 &&& 0x20#8 = 0x00#8) ∧
      v.getLsbD 1 = decide (t.b1 &&& 0x20#8 = 0x00#8) ∧
      v.getLsbD 2 = decide (t.b2 &&& 0x20#8 = 0x00#8) ∧
      v.getLsbD 3 = decide (t.b3 &&& 0x20#8 = 0x20#8) ∧
      (∀ k, 4 ≤ k → v.getLsbD k = false) ∧
      ∀ a b c d, exec .ctCrit s = .next a → exec .ctPub s = .next b → exec .ctRsv s = .next c →
        exec .ctSafe s = .next d → v = a.res + 2#32 * b.res + 4#32 * c.res + 8#32 * d.res) ∧
    (s.ty = none → exec .ctFlags s = .next { s with stErr := 8#4 })

/-- 41_chunk_type.md R134, R135: CT.EQ compares `TY` with `CK.TYPE` byte for byte, and needs both. -/
def Obligations.TypeEqualityIsByteForByte : Prop :=
  encode .ctEq = 0x1900000000#40 ∧
  ∀ s : State,
    (∀ t c, s.ty = some t → s.ck = some c →
      exec .ctEq s = .next { s with
        res := if t.b0 = c.typ.b0 ∧ t.b1 = c.typ.b1 ∧ t.b2 = c.typ.b2 ∧ t.b3 = c.typ.b3 then 1#32 else 0#32,
        stErr := 0#4 }) ∧
    (s.ty = none ∨ s.ck = none → exec .ctEq s = .next { s with stErr := 8#4 })

/-- 41_chunk_type.md R136, which the spec derives: inverting bit 5 of type byte `i` keeps the type valid, negates predicate
`i` and leaves the other three. -/
def Obligations.PredicateSymmetry : Prop :=
  ∀ t : TypeCode, t.alpha = true →
    (∀ t' : TypeCode, t' = { t with b0 := t.b0 ^^^ 0x20#8 } →
      t'.alpha = true ∧ isCritical t' = !isCritical t ∧ isPublic t' = isPublic t ∧
      isReservedBitValid t' = isReservedBitValid t ∧ isSafeToCopy t' = isSafeToCopy t) ∧
    (∀ t' : TypeCode, t' = { t with b1 := t.b1 ^^^ 0x20#8 } →
      t'.alpha = true ∧ isCritical t' = isCritical t ∧ isPublic t' = !isPublic t ∧
      isReservedBitValid t' = isReservedBitValid t ∧ isSafeToCopy t' = isSafeToCopy t) ∧
    (∀ t' : TypeCode, t' = { t with b2 := t.b2 ^^^ 0x20#8 } →
      t'.alpha = true ∧ isCritical t' = isCritical t ∧ isPublic t' = isPublic t ∧
      isReservedBitValid t' = !isReservedBitValid t ∧ isSafeToCopy t' = isSafeToCopy t) ∧
    (∀ t' : TypeCode, t' = { t with b3 := t.b3 ^^^ 0x20#8 } →
      t'.alpha = true ∧ isCritical t' = isCritical t ∧ isPublic t' = isPublic t ∧
      isReservedBitValid t' = isReservedBitValid t ∧ isSafeToCopy t' = !isSafeToCopy t)

/-- 41_chunk_type.md R137, which the spec derives: CT.DISP, the host's copy, CT.FROMS, CT.DISP succeed at every step,
leave `TY`, and write again what the first CT.DISP wrote. -/
def Obligations.DisplayIsIdempotent : Prop :=
  ∀ (s : State) (t : TypeCode) (rest : List HostMove),
    s.Inv → s.cfg.textOps = true → s.ty = some t →
    s.moves = .issue (encode .ctDisp) :: .loop :: .issue (encode .ctFroms) :: .issue (encode .ctDisp) :: rest →
    ∃ s1 s2 s3 s4, step s = .next s1 ∧ step s1 = .next s2 ∧ step s2 = .next s3 ∧ step s3 = .next s4 ∧
      s1.stErr = 0#4 ∧ s1.obuf = t.bytes ∧ s3.stErr = 0#4 ∧ s4.stErr = 0#4 ∧
      s4.obuf = s1.obuf ∧ s4.ty = s.ty ∧ s4.moves = rest

/-! ### The chunk parser and framer -/

/-- 42_chunk_framer.md R152, R153, 60_exceptions.md R202: CH.NEW raises NoValue first, is refused outside its
preconditions, and otherwise holds the chunk of `TY` and the input buffer. -/
def Obligations.ConstructFromTypeAndInput : Prop :=
  encode .chNew = 0x2000000000#40 ∧
  ∀ s : State,
    (s.ty = none → exec .chNew s = .next { s with stErr := 8#4 }) ∧
    ∀ t, s.ty = some t →
      (2 ^ 31 - 1 < s.ilen → exec .chNew s = .refused .payloadTooLong) ∧
      (s.ilen ≤ 2 ^ 31 - 1 → s.cfg.dcap < s.ilen → exec .chNew s = .refused .storeTooSmall) ∧
      (s.ilen ≤ 2 ^ 31 - 1 → s.ilen ≤ s.cfg.dcap → ∃ c : Chunk,
        exec .chNew s = .next { s with ck := some c, stErr := 0#4 } ∧
        c.len.toNat = s.ilen ∧ c.typ = t ∧ c.data = s.ibuf ∧
        c.crc = crc32 ([t.b0, t.b1, t.b2, t.b3] ++ s.ibuf))

/-- 42_chunk_framer.md R155, R156, R159, 60_exceptions.md R193 to R195, R200: CH.PARSE's ten steps, the first failing one
deciding. The buffer is written out byte by byte: four length bytes, four type bytes, then a body of at least four
bytes; `d` is the payload, `f0` to `f3` the stored CRC. -/
def Obligations.ParseReportsFirstFailingStep : Prop :=
  encode .chParse = 0x2100000000#40 ∧
  ∀ s : State,
    (s.ilen < 12 → exec .chParse s = .next { s with ck := none, stErr := 5#4 }) ∧
    ∀ (l0 l1 l2 l3 t0 t1 t2 t3 : Byte) (body : List Byte),
      s.ibuf = l0 :: l1 :: l2 :: l3 :: t0 :: t1 :: t2 :: t3 :: body → 4 ≤ body.length →
      (2 ^ 31 - 1 < bigEndian l0 l1 l2 l3 → exec .chParse s = .next { s with ck := none, stErr := 4#4 }) ∧
      (bigEndian l0 l1 l2 l3 ≤ 2 ^ 31 - 1 →
        (s.cfg.dcap < bigEndian l0 l1 l2 l3 → exec .chParse s = .refused .storeTooSmall) ∧
        (bigEndian l0 l1 l2 l3 ≤ s.cfg.dcap →
          (body.length < bigEndian l0 l1 l2 l3 + 4 → exec .chParse s = .next { s with ck := none, stErr := 5#4 }) ∧
          ∀ (d rest : List Byte) (f0 f1 f2 f3 : Byte),
            body = d ++ f0 :: f1 :: f2 :: f3 :: rest → d.length = bigEndian l0 l1 l2 l3 →
            (¬ Letters t0 t1 t2 t3 → exec .chParse s = .next { s with ck := none, stErr := 1#4 }) ∧
            (Letters t0 t1 t2 t3 → (crc32 (t0 :: t1 :: t2 :: t3 :: d)).toNat ≠ bigEndian f0 f1 f2 f3 →
              exec .chParse s = .next { s with
                ck := none, stErr := 6#4,
                stExp := crc32 (t0 :: t1 :: t2 :: t3 :: d), stFnd := BitVec.ofNat 32 (bigEndian f0 f1 f2 f3) }) ∧
            (Letters t0 t1 t2 t3 → (crc32 (t0 :: t1 :: t2 :: t3 :: d)).toNat = bigEndian f0 f1 f2 f3 →
              exec .chParse s = .next { s with
                ck := some ⟨BitVec.ofNat 32 (bigEndian l0 l1 l2 l3), ⟨t0, t1, t2, t3⟩, d,
                  BitVec.ofNat 32 (bigEndian f0 f1 f2 f3)⟩,
                stErr := 0#4 })))

/-- 42_chunk_framer.md R155, R157 and 30_encoding.md R76: CH.PARSE succeeds exactly on the wire form of a valid chunk that
fits the store, followed by any bytes, and then holds that chunk. -/
def Obligations.ParseAcceptsExactlyValidRecords : Prop :=
  ∀ (s : State) (c : Chunk),
    ((∃ t, exec .chParse s = .next t ∧ t.stErr = 0#4 ∧ t.ck = some c) ↔
      c.Ok s.cfg.dcap ∧ ∃ rest : List Byte, s.ibuf = c.wire ++ rest)

/-- 42_chunk_framer.md R157, which the spec derives: bytes after the record have no influence. Whatever CH.PARSE answers
other than Truncated, it answers the same with more bytes behind. -/
def Obligations.ParseIgnoresTrailingBytes : Prop :=
  ∀ (s t : State) (more : List Byte),
    exec .chParse s = .next t → t.stErr ≠ 5#4 →
    exec .chParse { s with ibuf := s.ibuf ++ more } = .next { t with ibuf := s.ibuf ++ more }

/-- 42_chunk_framer.md R157, R174, which the spec derives: every proper prefix of a record is Truncated, down to the empty
buffer. -/
def Obligations.ParseOfProperPrefixIsTruncated : Prop :=
  ∀ (s : State) (c : Chunk) (n : Nat),
    c.Ok s.cfg.dcap → n < 12 + c.len.toNat → s.ibuf = c.wire.take n →
    exec .chParse s = .next { s with ck := none, stErr := 5#4 }

/-- 42_chunk_framer.md R160, R162, R164: CH.LEN, CH.CRC and CH.SIZE return the length, the stored CRC and 12 plus the
length. On a chunk with the invariants of 10_state.md R24 bit 31 of the length is 0, the stored CRC is the chunk's, and the
sum does not wrap. -/
def Obligations.ScalarAccessors : Prop :=
  encode .chLen = 0x2200000000#40 ∧ encode .chCrc = 0x2500000000#40 ∧ encode .chSize = 0x2600000000#40 ∧
  ∀ s : State,
    (∀ c, s.ck = some c →
      exec .chLen s = .next { s with res := c.len, stErr := 0#4 } ∧
      exec .chCrc s = .next { s with res := c.crc, stErr := 0#4 } ∧
      ∃ v : Word, exec .chSize s = .next { s with res := v, stErr := 0#4 } ∧
        (c.Ok s.cfg.dcap → c.len.getLsbD 31 = false ∧ c.crc = crc32 (c.typ.bytes ++ c.data) ∧
          v.toNat = 12 + c.len.toNat ∧ 12 ≤ v.toNat ∧ v.toNat ≤ 2 ^ 31 + 11)) ∧
    (s.ck = none →
      exec .chLen s = .next { s with stErr := 8#4 } ∧ exec .chCrc s = .next { s with stErr := 8#4 } ∧
      exec .chSize s = .next { s with stErr := 8#4 })

/-- 42_chunk_framer.md R161, R163: CH.TYPE returns the chunk's type through `TY`, CH.DATA the payload through `OBUF`. The
premise on the length is item 1 of 10_state.md R24, an invariant (`StepKeepsInvariant`). -/
def Obligations.TypeAndDataAccessors : Prop :=
  encode .chType = 0x2300000000#40 ∧ encode .chData = 0x2400000000#40 ∧
  ∀ s : State,
    (∀ c, s.ck = some c →
      exec .chType s = .next { s with ty := some c.typ, stErr := 0#4 } ∧
      (c.len.toNat = c.data.length → exec .chData s = .next { s with obuf := c.data, stErr := 0#4 })) ∧
    (s.ck = none →
      exec .chType s = .next { s with stErr := 8#4 } ∧ exec .chData s = .next { s with stErr := 8#4 })

/-- 42_chunk_framer.md R167 with 30_encoding.md R76 and 00_scope.md R10: CH.EMIT writes the record, offset by offset:
length, type, data and stored CRC, the two integers most significant byte first. The premise on the length is item 1 of
10_state.md R24, an invariant. -/
def Obligations.EmitWritesTheWireFormat : Prop :=
  encode .chEmit = 0x2700000000#40 ∧
  ∀ s : State,
    (∀ c, s.ck = some c → c.len.toNat = c.data.length → ∃ out : List Byte,
      exec .chEmit s = .next { s with obuf := out, stErr := 0#4 } ∧
      out.length = 12 + c.len.toNat ∧
      (∀ k < 4, out[k]? = some (c.len.extractLsb' (24 - 8 * k) 8)) ∧
      out[4]? = some c.typ.b0 ∧ out[5]? = some c.typ.b1 ∧ out[6]? = some c.typ.b2 ∧ out[7]? = some c.typ.b3 ∧
      (∀ k < c.len.toNat, out[8 + k]? = c.data[k]?) ∧
      ∀ k < 4, out[8 + c.len.toNat + k]? = some (c.crc.extractLsb' (24 - 8 * k) 8)) ∧
    (s.ck = none → exec .chEmit s = .next { s with stErr := 8#4 })

/-- 42_chunk_framer.md R170, 60_exceptions.md R198: CH.TEXT writes the payload when it is valid UTF-8, and otherwise raises
InvalidUtf8 and leaves the chunk held. The premise on the length is item 1 of 10_state.md R24, an invariant. That `exec`,
asked for CH.TEXT directly with `TEXT_OPS = false`, refuses it by the name `textOpAbsent` is the model's choice (log 14);
30_encoding.md R85 makes its code reserved there. -/
def Obligations.TextIsThePayloadIfUtf8 : Prop :=
  encode .chText = 0x2800000000#40 ∧
  ∀ s : State,
    (s.cfg.textOps = false → exec .chText s = .refused .textOpAbsent) ∧
    (s.cfg.textOps = true → s.ck = none → exec .chText s = .next { s with stErr := 8#4 }) ∧
    ∀ c, s.cfg.textOps = true → s.ck = some c → c.len.toNat = c.data.length →
      (utf8Valid c.data = true → exec .chText s = .next { s with obuf := c.data, stErr := 0#4 }) ∧
      (utf8Valid c.data = false → exec .chText s = .next { s with stErr := 7#4 })

/-- 42_chunk_framer.md R172, a table the spec takes from general knowledge: a byte sequence is valid exactly when it is a
concatenation of byte patterns of the table. -/
def Obligations.Utf8IsConcatenationOfPatterns : Prop :=
  ∀ s : List Byte,
    utf8Valid s = true ↔
      ∃ parts : List (List Byte), s = parts.flatten ∧ ∀ p ∈ parts, ∃ row ∈ utf8Rows, fitsRow p row

/-- 42_chunk_framer.md R169, R170, which the spec derives: `OLEN` after CH.EMIT is what CH.SIZE returns, 12 plus what CH.LEN
returns, and `OLEN` after CH.DATA is what CH.LEN returns; a CH.TEXT that succeeds writes exactly what CH.DATA would. -/
def Obligations.SizesAgree : Prop :=
  ∀ (s : State) (c : Chunk), s.Inv → s.ck = some c →
    ∃ t u v w, exec .chEmit s = .next t ∧ exec .chSize s = .next u ∧ exec .chLen s = .next v ∧ exec .chData s = .next w ∧
      t.olen = u.res.toNat ∧ u.res.toNat = 12 + v.res.toNat ∧ w.olen = v.res.toNat ∧
      ∀ x, exec .chText s = .next x → x.stErr = 0#4 → x = w

/-- 42_chunk_framer.md R168, which the spec derives: construct, emit, the host's copy, parse succeed at every step and give
back the constructed chunk, for every type and every legal payload. -/
def Obligations.ParseOfEmitOfConstructIsIdentity : Prop :=
  ∀ (s : State) (t : TypeCode) (rest : List HostMove),
    s.Inv → s.ty = some t → s.ilen ≤ s.cfg.dcap →
    s.moves = .issue (encode .chNew) :: .issue (encode .chEmit) :: .loop :: .issue (encode .chParse) :: rest →
    ∃ s1 s2 s3 s4, step s = .next s1 ∧ step s1 = .next s2 ∧ step s2 = .next s3 ∧ step s3 = .next s4 ∧
      s1.stErr = 0#4 ∧ s2.stErr = 0#4 ∧ s4.stErr = 0#4 ∧
      s1.ck = some (makeChunk t s.ibuf) ∧ s4.ck = s1.ck ∧ s4.moves = rest

/-- 42_chunk_framer.md R173, rows type, data and crc, which the spec derives: one inverted bit outside the length field of
a serialised chunk makes CH.PARSE fail, with InvalidTypeByte where a type byte is no letter any more and with
ChecksumMismatch otherwise. -/
def Obligations.FlippedBitAfterLengthIsDetected : Prop :=
  ∀ (s : State) (c : Chunk) (k j : Nat),
    c.Ok s.cfg.dcap → 4 ≤ k → k < 12 + c.len.toNat → j < 8 → s.ibuf = flipBit c.wire k j →
    ∃ t, exec .chParse s = .next t ∧ t.ck = none ∧
      ((8 ≤ k ∨ ∀ b, s.ibuf[k]? = some b → Letter b) → t.stErr = 6#4) ∧
      ((k < 8 ∧ ∀ b, s.ibuf[k]? = some b → ¬ Letter b) → t.stErr = 1#4)

/-- 42_chunk_framer.md R173, the length rows, which the spec derives: bit 31 gives LengthTooLarge; another bit that was 0
gives Truncated, or is refused where the longer length exceeds `DCAP`; a bit that was 1 gives ChecksumMismatch unless the
shorter record happens to be valid, when it is parsed. -/
def Obligations.FlippedLengthBit : Prop :=
  ∀ (s : State) (c : Chunk) (n : Nat),
    c.Ok s.cfg.dcap → n < 32 → s.ibuf = flipBit c.wire (3 - n / 8) (n % 8) →
    (n = 31 → exec .chParse s = .next { s with ck := none, stErr := 4#4 }) ∧
    (n < 31 → c.len.getLsbD n = false →
      (c.len.toNat + 2 ^ n ≤ s.cfg.dcap → exec .chParse s = .next { s with ck := none, stErr := 5#4 }) ∧
      (s.cfg.dcap < c.len.toNat + 2 ^ n → exec .chParse s = .refused .storeTooSmall)) ∧
    (c.len.getLsbD n = true → ∃ t, exec .chParse s = .next t ∧
      ((t.stErr = 6#4 ∧ t.ck = none) ∨
        (t.stErr = 0#4 ∧ ∃ c' : Chunk, t.ck = some c' ∧ c'.len.toNat + 2 ^ n = c.len.toNat ∧
          c'.crc = crc32 (memRead c.wire 4 (4 + c'.len.toNat)))))

/-- 41_chunk_type.md R134 and 42_chunk_framer.md R161, R152, which the spec derives: right after CH.TYPE or CH.NEW, CT.EQ
gives 1. -/
def Obligations.TypeReadBackIsEqual : Prop :=
  ∀ (s : State) (i : Instr) (t : State), i = .chType ∨ i = .chNew → exec i s = .next t → t.stErr = 0#4 →
    ∃ u, exec .ctEq t = .next u ∧ u.res = 1#32 ∧ u.stErr = 0#4

/-! ### Rules of the whole machine -/

/-- 60_exceptions.md R196, R202: a command that needs a type while `TYV = 0`, or a chunk while `CK.V = 0`, raises NoValue
before anything else and changes nothing but `ST.ERR`. -/
def Obligations.NoValueChangesOnlyTheCode : Prop :=
  ∀ (i : Instr) (s : State), i.wf s.cfg = true →
    ((i.needsType = true ∧ s.tyv = false) ∨ (i.needsChunk = true ∧ s.ckv = false)) →
    exec i s = .next { s with stErr := 8#4 }

/-- 60_exceptions.md R197: a command that raises an error writes its code, clears the valid bit of the register it was to
fill (`TYV` for CT.FROMB and CT.FROMS, `CK.V` for CH.PARSE), records both CRCs on ChecksumMismatch, and changes nothing
else. -/
def Obligations.ErrorChangesNothingElse : Prop :=
  ∀ (i : Instr) (s t : State), exec i s = .next t → t.stErr ≠ 0#4 →
    t = { s with
      stErr := t.stErr
      ty := if i.dest = .ty then none else s.ty
      ck := if i.dest = .ck then none else s.ck
      stExp := if t.stErr = 6#4 then t.stExp else s.stExp
      stFnd := if t.stErr = 6#4 then t.stFnd else s.stFnd } ∧
    (t.stErr = 6#4 → i = .chParse ∧ t.stExp ≠ t.stFnd)

/-- 10_state.md R27: `ST.ERR` is not sticky, every command writes it and what it writes never depends on the old value: 0,
or a code of 60_exceptions.md R190 that the command can raise. Values above 8 are never written. -/
def Obligations.ErrorCodeIsNotSticky : Prop :=
  ∀ (i : Instr) (s : State) (e : BitVec 4),
    exec i { s with stErr := e } = exec i s ∧
    ∀ t, exec i s = .next t → (t.stErr = 0#4 ∨ t.stErr ∈ i.raises) ∧ t.stErr.toNat ≤ 8

/-- 10_state.md R28: `ST.EXP` and `ST.FND` are written together, only by a CH.PARSE that raises ChecksumMismatch, with the
CRC computed over type and payload and the CRC stored in the buffer; every other command keeps them. -/
def Obligations.MismatchRegistersKeepTheirValues : Prop :=
  ∀ (i : Instr) (s t : State), exec i s = .next t →
    (¬ (i = .chParse ∧ t.stErr = 6#4) → t.stExp = s.stExp ∧ t.stFnd = s.stFnd) ∧
    (i = .chParse ∧ t.stErr = 6#4 → ∃ len, len = (be32At s.ibuf 0).toNat ∧ 12 + len ≤ s.ilen ∧
      t.stExp = crc32 (memRead s.ibuf 4 (4 + len)) ∧ t.stFnd = be32At s.ibuf (8 + len))

/-- The column "written by" of 10_state.md R20, as a frame over all commands: a command writes no register but those the
table names for it, and nothing of the host. -/
def Obligations.CommandsWriteOnlyTheirRegisters : Prop :=
  ∀ (i : Instr) (s t : State), exec i s = .next t →
    (∀ r : Reg, i.writes r = false → t.SameReg s.toBlock r) ∧
    t.cfg = s.cfg ∧ t.moves = s.moves ∧ t.seen = s.seen

/-- 10_state.md R29, R30, 20_memory.md R50, byte by byte: no command changes `IBUF`; a command outside CH.NEW and CH.PARSE
changes no byte of `CK.DATA`; a command outside the five that write `OBUF` leaves `OBUF` and `OLEN`, also when it fails. -/
def Obligations.CommandsStoreOnlyInTheirBuffer : Prop :=
  ∀ (i : Instr) (s t : State), exec i s = .next t →
    (t.ilen = s.ilen ∧ ∀ a, t.byteAt .ibuf a = s.byteAt .ibuf a) ∧
    (i ≠ .chNew → i ≠ .chParse → ∀ a, t.byteAt .ckData a = s.byteAt .ckData a) ∧
    (i ≠ .ctBytes → i ≠ .ctDisp → i ≠ .chData → i ≠ .chEmit → i ≠ .chText →
      t.olen = s.olen ∧ ∀ a, t.byteAt .obuf a = s.byteAt .obuf a)

/-- 60_exceptions.md R209, 70_reset_and_hazards.md R231: a command answers a next state exactly when it is inside its
precondition, and never faults. `Instr.Pre` has the command exist in the instance: that `exec`, asked for CT.FROMS, CT.DISP
or CH.TEXT directly with `TEXT_OPS = false`, answers a refusal is the model's choice (log 14), beside 30_encoding.md R85,
which makes their codes reserved there. -/
def Obligations.CommandsCompleteInsideTheirPrecondition : Prop :=
  ∀ (i : Instr) (s : State),
    ((∃ t, exec i s = .next t) ↔ i.Pre s) ∧ ((∃ r, exec i s = .refused r) ↔ ¬ i.Pre s)

/-- 42_chunk_framer.md R151: the chunk and type commands neither read nor write `ACC`; and CRC.INIT and CRC.SUM do not
depend on its old value (40_crc_generator.md R105, R109). -/
def Obligations.AccIsPrivateToTheCrcUnit : Prop :=
  (∀ (i : Instr) (s t : State) (a : Word),
    (∀ b, i ≠ .crcByte b) → i ≠ .crcInit → i ≠ .crcBuf → i ≠ .crcRead → i ≠ .crcSum →
    exec i s = .next t → t.acc = s.acc ∧ exec i { s with acc := a } = .next { t with acc := a }) ∧
  ∀ (s : State) (a : Word),
    exec .crcInit { s with acc := a } = exec .crcInit s ∧ exec .crcSum { s with acc := a } = exec .crcSum s

/-! ### The host's moves, reset and runs -/

/-- A step takes the host's next command word and runs the command it decodes to, on the machine from whose list the word
was taken (20_memory.md R58, R62); on a reserved word no step is taken (30_encoding.md R85). The list is the model's own
(log 1). -/
def Obligations.StepRunsTheIssuedCommand : Prop :=
  ∀ (s : State) (w : CmdWord) (rest : List HostMove), s.moves = .issue w :: rest →
    (∀ i : Instr, decode s.cfg w = .instr i → step s = exec i { s with moves := rest }) ∧
    ∀ r : Reject, decode s.cfg w = .rejected r → step s = .refused (.reservedWord r)

/-- 20_memory.md R60, R61, R63: the host's write sets `IBUF` and `ILEN` and nothing else, its read changes nothing of the
block and takes what R61 names, its copy reads `OBUF[0..OLEN)` and writes it to `IBUF`. That what is read is kept in a list
is the model's own (log 5). -/
def Obligations.HostWritesReadsAndCopies : Prop :=
  ∀ (s : State) (rest : List HostMove),
    (∀ bytes : List Byte, s.moves = .write bytes :: rest → bytes.length ≤ s.cfg.icap →
      step s = .next { s with ibuf := bytes, moves := rest }) ∧
    (s.moves = .read :: rest →
      step s = .next { s with moves := rest, seen := s.seen ++ [.all ⟨s.res, s.stErr, s.stExp, s.stFnd, s.obuf⟩] }) ∧
    (s.moves = .loop :: rest → s.olen ≤ s.cfg.icap →
      step s = .next { s with ibuf := s.obuf, moves := rest, seen := s.seen ++ [.output s.obuf] })

/-- 10_state.md R33: the first state has the values of the reset table; what the table calls unspecified holds no value, as
its last sentence asks. -/
def Obligations.FirstStateIsTheResetState : Prop :=
  State.reset.acc = 0xFFFFFFFF#32 ∧ State.reset.res = 0x00000000#32 ∧ State.reset.tyv = false ∧
  State.reset.ty = none ∧ State.reset.ckv = false ∧ State.reset.ck = none ∧ State.reset.stErr = 0#4 ∧
  State.reset.stExp = 0x00000000#32 ∧ State.reset.stFnd = 0x00000000#32 ∧ State.reset.ilen = 0 ∧
  State.reset.olen = 0 ∧ ∀ sp a, State.reset.byteAt sp a = none

/-- 70_reset_and_hazards.md R220, R221: reset, whatever came before, puts every piece of the block's state to the first
state's value; nothing survives it. The list it is taken from is the model's own (log 1). -/
def Obligations.ResetGivesTheResetValues : Prop :=
  ∀ (s : State) (rest : List HostMove), s.moves = .reset :: rest → ∃ t : State, step s = .next t ∧
    t.toBlock = State.reset.toBlock ∧ t.cfg = s.cfg ∧ t.seen = s.seen ∧ t.moves = rest

/-- 70_reset_and_hazards.md R226, 10_state.md R25: whatever the host writes to `IBUF`, however often, the held chunk is not
affected, nor is what CH.EMIT then writes. -/
def Obligations.HeldChunkDoesNotAliasInput : Prop :=
  ∀ (s : State) (c : Chunk) (writes : List (List Byte)) (rest : List HostMove),
    s.ck = some c → (∀ w ∈ writes, w.length ≤ s.cfg.icap) → s.moves = writes.map .write ++ rest →
    ∃ t, s.RunsTo writes.length t ∧ t.ck = some c ∧ t.moves = rest ∧
      ∃ u v, exec .chEmit s = .next u ∧ exec .chEmit t = .next v ∧ v.obuf = u.obuf

/-- 30_encoding.md R90: CRC.BYTES expands to one CRC.BYTE for each operand, in order, and to nothing without operands; run,
it feeds the bytes. -/
def Obligations.PseudoInstructionFeedsItsBytes : Prop :=
  ∀ (bytes : List Byte) (s : State) (rest : List HostMove),
    assembleLine (.crcBytes bytes) = bytes.map (fun b => HostMove.issue (BitVec.ofNat 40 (0x0100000000 + b.toNat))) ∧
    (s.moves = assembleLine (.crcBytes bytes) ++ rest →
      ∃ t, s.RunsTo bytes.length t ∧ t.acc = crcAcc s.acc bytes ∧ t.moves = rest ∧ t.ibuf = s.ibuf ∧ t.res = s.res)

/-- 70_reset_and_hazards.md R231, R232: `n` moves never fault, and a run that is not refused has made all the host's moves
after as many steps as there are. That nothing happens after the last move is the model's choice (log 7). -/
def Obligations.RunMakesEveryMoveAndStops : Prop :=
  (∀ (s : State) (n : Nat), (∃ t, s.RunsTo n t) ∨ ∃ r, Host.Core.run core n s = .refused r) ∧
  (∀ (s t : State), s.RunsTo s.moves.length t → t.moves = []) ∧
  ∀ s : State, s.moves = [] → step s = .next s

/-- 70_reset_and_hazards.md R232, "together with everything it read on the way": each step appends what the host reads by
its move (20_memory.md R61, R63) and nothing else; at the end of a run of any length all earlier reads still stand, oldest
first, and one was added for each read and each copy made; the run's result holds them beside what the host can then read.
That the reads are kept in a list is the model's own (log 5). -/
def Obligations.ResultHoldsEverythingRead : Prop :=
  (∀ s t : State, step s = .next t → t.seen = s.seen ++ s.readsNext) ∧
  (∀ (s : State) (n : Nat) (t : State), s.RunsTo n t → ∃ reads, t.seen = s.seen ++ reads ∧
    reads.length = (s.moves.take n).countP (fun m => m = .read ∨ m = .loop) ∧
    t.result = (⟨t.res, t.stErr, t.stExp, t.stFnd, t.obuf⟩, s.seen ++ reads))

/-! ### Encoding -/

/-- 30_encoding.md R70 to R75, R84: decoding the word of a command that exists in the instance gives the command back,
every operand at every value. -/
def Obligations.DecodeOfEncode : Prop :=
  ∀ (p : Params) (i : Instr), i.wf p = true → decode p (encode i) = .instr i

/-- 30_encoding.md R84 to R86: a word that decodes to a command is that command's word, and the command exists in the
instance. -/
def Obligations.EncodeOfDecode : Prop :=
  ∀ (p : Params) (w : CmdWord) (i : Instr), decode p w = .instr i → encode i = w ∧ i.wf p = true

/-- 30_encoding.md R85, R86: the decoder's verdict on a word with a reserved `op`, or with a must-be-zero immediate bit set,
is "invalid". -/
def Obligations.ReservedWordsAreRefused : Prop :=
  ∀ (p : Params) (w : CmdWord) (op imm : Nat), op = w.toNat / 2 ^ 32 → imm = w.toNat % 2 ^ 32 →
    ((0x05 ≤ op ∧ op ≤ 0x0F) ∨ (0x1A ≤ op ∧ op ≤ 0x1F) ∨ 0x29 ≤ op ∨
        (p.textOps = false ∧ (op = 0x11 ∨ op = 0x13 ∨ op = 0x28)) →
      decode p w = .rejected .reservedOp) ∧
    (op = 0x01 ∧ imm / 2 ^ 8 ≠ 0 → decode p w = .rejected .reservedImm) ∧
    ((op = 0x00 ∨ (0x02 ≤ op ∧ op ≤ 0x04) ∨ op = 0x12 ∨ (0x14 ≤ op ∧ op ≤ 0x19) ∨ (0x20 ≤ op ∧ op ≤ 0x27) ∨
        (p.textOps = true ∧ (op = 0x11 ∨ op = 0x13 ∨ op = 0x28))) ∧ imm ≠ 0 →
      decode p w = .rejected .reservedImm)

/-- 30_encoding.md R84, last sentence: the decoder does the same as `(cmd & mask) = match` over the rows of
spec/opcode_table.json, of which no two share a word. -/
def Obligations.DecoderAgreesWithTheOpcodeTable : Prop :=
  (∀ (p : Params) (w : CmdWord) (i : Instr), decode p w = .instr i →
    ∃ r ∈ opcodeRows, r.mnemonic = i.mnemonic ∧ r.covers w = true) ∧
  (∀ (p : Params) (w : CmdWord), p.textOps = true → ∀ r ∈ opcodeRows, r.covers w = true →
    ∃ i, decode p w = .instr i ∧ i.mnemonic = r.mnemonic) ∧
  opcodeRows.Pairwise fun r r' => ∀ w : CmdWord, ¬ (r.covers w = true ∧ r'.covers w = true)

/-- Words that 95_test_vectors.md writes out decode to the commands they stand for, and words it lists as reserved to
none. -/
def Obligations.WrittenWordsDecode : Prop :=
  decode Params.standard 0x0100000049#40 = .instr (.crcByte 0x49#8) ∧
  decode Params.standard 0x0400000000#40 = .instr .crcSum ∧
  decode Params.standard 0x1052755374#40 = .instr (.ctFromb 0x52#8 0x75#8 0x53#8 0x74#8) ∧
  decode Params.standard 0x10FFFFFFFF#40 = .instr (.ctFromb 0xFF#8 0xFF#8 0xFF#8 0xFF#8) ∧
  decode Params.standard 0x2100000000#40 = .instr .chParse ∧
  decode Params.standard 0x2800000000#40 = .instr .chText ∧
  decode Params.standard 0x0500000000#40 = .rejected .reservedOp ∧
  decode Params.standard 0x0100000149#40 = .rejected .reservedImm

/-! ### The invariant -/

/-- 10_state.md R23, R24, R27, 00_scope.md R6: every step keeps the machine well formed: a held type is alphabetic, a held
chunk meets its four invariants and fits the store, the buffers fit, the error code is at most 8. -/
def Obligations.StepKeepsInvariant : Prop :=
  ∀ s t : State, s.Inv → step s = .next t → t.Inv

/-- The machine right after reset is well formed. -/
def Obligations.ResetMeetsInvariant : Prop := State.reset.Inv
end

