-- ==== Sys2Proof/Laws/State.lean ====
section
/-! SUPPORT. One lemma per field for the state after an error and after a read of the host; the reset state; the byte spaces in canonical form. -/

namespace Sys2Proof.Machine

open Sys2Proof

/-! The state after an error, field by field (60_exceptions.md R197). -/

@[simp] theorem raised_acc (d : Dest) (e : ErrorKind) (s : State) : (raised d e s).acc = s.acc := rfl

@[simp] theorem raised_res (d : Dest) (e : ErrorKind) (s : State) : (raised d e s).res = s.res := rfl

@[simp] theorem raised_ibuf (d : Dest) (e : ErrorKind) (s : State) : (raised d e s).ibuf = s.ibuf := rfl

@[simp] theorem raised_obuf (d : Dest) (e : ErrorKind) (s : State) : (raised d e s).obuf = s.obuf := rfl

@[simp] theorem raised_cfg (d : Dest) (e : ErrorKind) (s : State) : (raised d e s).cfg = s.cfg := rfl

@[simp] theorem raised_moves (d : Dest) (e : ErrorKind) (s : State) : (raised d e s).moves = s.moves := rfl

@[simp] theorem raised_seen (d : Dest) (e : ErrorKind) (s : State) : (raised d e s).seen = s.seen := rfl

@[simp] theorem raised_stErr (d : Dest) (e : ErrorKind) (s : State) : (raised d e s).stErr = e.code := rfl

@[simp] theorem raised_ty (d : Dest) (e : ErrorKind) (s : State) :
    (raised d e s).ty = if d = .ty ∧ e.clears = true then none else s.ty := rfl

@[simp] theorem raised_ck (d : Dest) (e : ErrorKind) (s : State) :
    (raised d e s).ck = if d = .ck ∧ e.clears = true then none else s.ck := rfl

/-- `NoValue` changes `ST.ERR` only (60_exceptions.md R196). -/
@[simp] theorem raised_noValue (s : State) : raised .nothing .noValue s = { s with stErr := 8#4 } := rfl

/-- A failed accessor changes `ST.ERR` only (60_exceptions.md R198). -/
@[simp] theorem raised_invalidUtf8 (s : State) : raised .nothing .invalidUtf8 s = { s with stErr := 7#4 } := rfl

/-- A failed type constructor leaves no type held. -/
@[simp] theorem raised_ty_invalidTypeByte (s : State) :
    raised .ty .invalidTypeByte s = { s with ty := none, stErr := 1#4 } := rfl

@[simp] theorem raised_ty_wrongLength (s : State) :
    raised .ty .wrongLength s = { s with ty := none, stErr := 2#4 } := rfl

@[simp] theorem raised_ty_nonAscii (s : State) : raised .ty .nonAscii s = { s with ty := none, stErr := 3#4 } := rfl

/-- A failed parse leaves no chunk held (42_chunk_framer.md R159). -/
@[simp] theorem raised_ck_invalidTypeByte (s : State) :
    raised .ck .invalidTypeByte s = { s with ck := none, stErr := 1#4 } := rfl

@[simp] theorem raised_ck_lengthTooLarge (s : State) :
    raised .ck .lengthTooLarge s = { s with ck := none, stErr := 4#4 } := rfl

@[simp] theorem raised_ck_truncated (s : State) :
    raised .ck .truncated s = { s with ck := none, stErr := 5#4 } := rfl

@[simp] theorem raised_ck_checksumMismatch (e f : Word) (s : State) :
    raised .ck (.checksumMismatch e f) s = { s with ck := none, stErr := 6#4, stExp := e, stFnd := f } := rfl

/-- No error writes the success code. -/
theorem ErrorKind.code_ne_zero (e : ErrorKind) : e.code ≠ 0#4 := by cases e <;> simp [ErrorKind.code]

/-- Codes 9 to 15 are never written (10_state.md R27). -/
theorem ErrorKind.code_le (e : ErrorKind) : e.code.toNat ≤ 8 := by cases e <;> simp [ErrorKind.code]

/-! The machine after a read of the host, field by field (20_memory.md R61: "Reading changes nothing"). -/

@[simp] theorem State.noteRead_toBlock (r : HostRead) (s : State) : (s.noteRead r).toBlock = s.toBlock := rfl

@[simp] theorem State.noteRead_cfg (r : HostRead) (s : State) : (s.noteRead r).cfg = s.cfg := rfl

@[simp] theorem State.noteRead_moves (r : HostRead) (s : State) : (s.noteRead r).moves = s.moves := rfl

@[simp] theorem State.noteRead_seen (r : HostRead) (s : State) : (s.noteRead r).seen = s.seen ++ [r] := rfl

/-! The byte spaces. -/

/-- The address and byte pairs of a space stand at strictly rising addresses. -/
theorem Memory.cells_rising (m : Memory) : (m.cells.map Prod.fst).Pairwise (· < ·) := by
  have h : m.cells.map Prod.fst = List.range m.length := by
    simp [Memory.cells, Function.comp_def, List.zipIdx_map_snd, List.range_eq_range']
  rw [h]
  exact List.pairwise_lt_range

/-- Equal address and byte pairs are equal spaces. -/
theorem Memory.cells_inj {m n : Memory} (h : m.cells = n.cells) : m = n := by
  have key : ∀ l : Memory, l.cells.map Prod.snd = l := fun l => by
    simp [Memory.cells, Function.comp_def]
  rw [← key m, ← key n, h]

@[simp] theorem Memory.wf_iff (cap : Nat) (m : Memory) : m.wf cap = true ↔ m.length ≤ cap := by simp [Memory.wf]

/-- After reset every space is in canonical form, whatever the capacity. -/
theorem Memory.wf_reset (cap : Nat) (sp : Space) : (State.reset.space sp).wf cap = true := by
  cases sp <;> simp [State.reset, Block.reset, Block.space]

end Sys2Proof.Machine
end

