-- ==== Sys2Proof/Laws/Ops.lean ====
section
/-! SUPPORT. One lemma for each shared operation that says everything it can do. -/

namespace Sys2Proof.Machine

open Sys2Proof

variable {s t : State}

/-! Ending a command. -/

@[simp] theorem succeed_next : succeed s = .next t ↔ t = { s with stErr := 0#4 } := by
  simp [succeed, eq_comm]

@[simp] theorem succeed_not_refused {r : Refusal} : succeed s ≠ .refused r := by simp [succeed]

@[simp] theorem raise_next {d : Dest} {e : ErrorKind} : raise d e s = .next t ↔ t = raised d e s := by
  simp [raise, eq_comm]

@[simp] theorem raise_not_refused {d : Dest} {e : ErrorKind} {r : Refusal} : raise d e s ≠ .refused r := by simp [raise]

@[simp] theorem returnWord_next {v : Word} :
    returnWord v s = .next t ↔ t = { s with res := v, stErr := 0#4 } := by simp [returnWord]

@[simp] theorem returnWord_not_refused {v : Word} {r : Refusal} : returnWord v s ≠ .refused r := by simp [returnWord]

@[simp] theorem returnBytes_next {bs : List Byte} :
    returnBytes bs s = .next t ↔ t = { s with obuf := bs, stErr := 0#4 } := by simp [returnBytes]

@[simp] theorem returnBytes_not_refused {bs : List Byte} {r : Refusal} : returnBytes bs s ≠ .refused r := by
  simp [returnBytes]

/-! The guards. -/

/-- What a command that needs a type can do. -/
theorem withType_next {k : TypeCode → Host.Outcome State Fault Refusal} :
    withType s k = .next t ↔
      (s.ty = none ∧ t = { s with stErr := 8#4 }) ∨ ∃ c, s.ty = some c ∧ k c = .next t := by
  unfold withType
  cases h : s.ty <;> simp [h]

/-- What a command that needs a chunk can do. -/
theorem withChunk_next {k : Chunk → Host.Outcome State Fault Refusal} :
    withChunk s k = .next t ↔
      (s.ck = none ∧ t = { s with stErr := 8#4 }) ∨ ∃ c, s.ck = some c ∧ k c = .next t := by
  unfold withChunk
  cases h : s.ck <;> simp [h]

theorem withType_refused {k : TypeCode → Host.Outcome State Fault Refusal} {r : Refusal} :
    withType s k = .refused r ↔ ∃ c, s.ty = some c ∧ k c = .refused r := by
  unfold withType
  cases h : s.ty <;> simp

theorem withChunk_refused {k : Chunk → Host.Outcome State Fault Refusal} {r : Refusal} :
    withChunk s k = .refused r ↔ ∃ c, s.ck = some c ∧ k c = .refused r := by
  unfold withChunk
  cases h : s.ck <;> simp

/-- What a text command can do. -/
theorem withTextOps_next {k : Host.Outcome State Fault Refusal} :
    withTextOps s k = .next t ↔ s.cfg.textOps = true ∧ k = .next t := by
  unfold withTextOps
  cases h : s.cfg.textOps <;> simp

theorem withTextOps_refused {k : Host.Outcome State Fault Refusal} {r : Refusal} :
    withTextOps s k = .refused r ↔
      (s.cfg.textOps = false ∧ r = .textOpAbsent) ∨ (s.cfg.textOps = true ∧ k = .refused r) := by
  unfold withTextOps
  cases h : s.cfg.textOps <;> simp [eq_comm]

/-! Reading the byte spaces. -/

@[simp] theorem memRead_whole (m : Memory) : memRead m 0 m.length = m := by simp [memRead]

@[simp] theorem inputBytes_eq (s : State) : inputBytes s = s.ibuf := by simp [inputBytes, Block.ilen]

/-- A read inside the space has exactly the bytes asked for (20_memory.md R52). -/
theorem length_memRead {m : Memory} {off n : Nat} (h : off + n ≤ m.length) : (memRead m off n).length = n := by
  simp [memRead]
  omega

/-- A byte at a valid offset is that byte of the space: the default of `memByte` is not used. -/
theorem memByte_eq {m : Memory} {off : Nat} (h : off < m.length) : memByte m off = m[off] := by
  simp [memByte, h]

/-- Reading a slice that stands between two others. -/
theorem memRead_append (u v w : List Byte) : memRead (u ++ (v ++ w)) u.length v.length = v := by simp [memRead]

/-- Bytes behind the read have no influence. -/
theorem memRead_append_left {m w : Memory} {off n : Nat} (h : off + n ≤ m.length) :
    memRead (m ++ w) off n = memRead m off n := by
  simp only [memRead, List.drop_append_of_le_length (show off ≤ m.length by omega)]
  exact List.take_append_of_le_length (by simp; omega)

theorem memByte_append_left {m w : Memory} {off : Nat} (h : off < m.length) : memByte (m ++ w) off = memByte m off := by
  simp [memByte, List.getElem?_append_left h]

/-! Big-endian packing (00_scope.md R10). -/

theorem be32_toNat (b0 b1 b2 b3 : Byte) :
    (be32 b0 b1 b2 b3).toNat = b0.toNat * 2 ^ 24 + b1.toNat * 2 ^ 16 + b2.toNat * 2 ^ 8 + b3.toNat := by
  have h1 := b1.isLt
  have h2 := b2.isLt
  have h3 := b3.isLt
  simp only [be32, BitVec.toNat_append]
  rw [← Nat.shiftLeft_add_eq_or_of_lt h3, ← Nat.shiftLeft_add_eq_or_of_lt h2, ← Nat.shiftLeft_add_eq_or_of_lt h1]
  simp only [Nat.shiftLeft_eq]
  omega

@[simp] theorem length_be32Bytes (v : Word) : (be32Bytes v).length = 4 := rfl

@[simp] theorem length_typeBytes (c : TypeCode) : c.bytes.length = 4 := rfl

/-- Splitting a word and packing it again gives it back. -/
theorem be32_be32Bytes (v : Word) :
    be32 (v.extractLsb' 24 8) (v.extractLsb' 16 8) (v.extractLsb' 8 8) (v.extractLsb' 0 8) = v := by
  apply BitVec.eq_of_getLsbD_eq
  intro i hi
  simp only [be32, BitVec.getLsbD_append, BitVec.getLsbD_extractLsb']
  split
  · simp [*]
  · split
    · rw [show 8 + (i - 8) = i by omega]
      simp [*]
    · split
      · rw [show 16 + (i - 8 - 8) = i by omega]
        simp [*]
      · rw [show 24 + (i - 8 - 8 - 8) = i by omega]
        simp
        omega

/-- Packing four bytes and splitting the word gives them back. -/
@[simp] theorem be32Bytes_be32 (b0 b1 b2 b3 : Byte) : be32Bytes (be32 b0 b1 b2 b3) = [b0, b1, b2, b3] := by
  have h := be32_toNat b0 b1 b2 b3
  have h0 := b0.isLt
  have h1 := b1.isLt
  have h2 := b2.isLt
  have h3 := b3.isLt
  simp only [be32Bytes, List.cons.injEq, and_true]
  refine ⟨?_, ?_, ?_, ?_⟩ <;>
    (apply BitVec.eq_of_toNat_eq
     simp only [BitVec.extractLsb'_toNat, h, Nat.shiftRight_eq_div_pow]
     omega)

/-! The CRC functions (40_crc_generator.md R103). -/

@[simp] theorem crcAcc_nil (a : Word) : crcAcc a [] = a := rfl

@[simp] theorem crcAcc_cons (a : Word) (b : Byte) (bs : List Byte) : crcAcc a (b :: bs) = crcAcc (crcStep a b) bs := rfl

theorem crcAcc_append (a : Word) (u v : List Byte) : crcAcc a (u ++ v) = crcAcc (crcAcc a u) v := by
  induction u generalizing a with
  | nil => rfl
  | cons b u ih => simp [ih]

/-! Every operation that writes a byte space keeps its canonical form. -/

/-- The whole of a host write: it fits, and only `IBUF` with `ILEN` changes (20_memory.md R60). -/
theorem hostWrite_next {bytes : List Byte} :
    hostWrite bytes s = .next t ↔ bytes.length ≤ s.cfg.icap ∧ t = { s with ibuf := bytes } := by
  unfold hostWrite
  split <;> simp_all [eq_comm]

/-- The whole of a copy: the output fits, it becomes the input, and its read is noted (20_memory.md R63). -/
theorem hostLoop_next :
    hostLoop s = .next t ↔ s.olen ≤ s.cfg.icap ∧ t = { s.noteRead (.output s.obuf) with ibuf := s.obuf } :=
  hostWrite_next

theorem hostWrite_keeps_wf {bytes : List Byte} (h : hostWrite bytes s = .next t) : t.ibuf.wf t.cfg.icap = true := by
  unfold hostWrite at h
  split at h
  · cases h
    simpa
  · cases h

theorem wire_keeps_wf {c : Chunk} {cap : Nat} (h : c.data.wf cap = true) : Memory.wf (12 + cap) c.wire = true := by
  simp only [Memory.wf_iff] at *
  simp [Chunk.wire, Chunk.payload, memRead]
  omega

theorem payload_keeps_wf {c : Chunk} {cap : Nat} (h : c.data.wf cap = true) : Memory.wf (12 + cap) c.payload = true := by
  simp only [Memory.wf_iff] at *
  simp [Chunk.payload, memRead]
  omega

theorem typeBytes_wf (c : TypeCode) (cap : Nat) : Memory.wf (12 + cap) c.bytes = true := by
  simp
  omega

/-! A step. -/

/-- The host's next move, taken from its list. -/
theorem step_cons {m : HostMove} {rest : List HostMove} (h : s.moves = m :: rest) :
    step s = hostMove m { s with moves := rest } := by
  simp [step, h]

theorem step_nil (h : s.moves = []) : step s = .next s := by simp [step, h]

/-- A run of one step more. -/
theorem RunsTo_succ {n : Nat} {u : State} (h : step s = .next u) : s.RunsTo (n + 1) t ↔ u.RunsTo n t := by
  change Host.Core.run core (n + 1) s = _ ↔ _
  simp only [Host.Core.run, core, h]
  rfl

theorem RunsTo_zero : s.RunsTo 0 t ↔ s = t := by
  constructor
  · intro h
    exact Host.Outcome.next.inj h
  · rintro rfl
    rfl

end Sys2Proof.Machine
end

