-- ==== Sys2Proof/Laws/Chunk.lean ====
section
/-! SUPPORT. The record of a chunk whose `CK.LEN` is its payload's length (10_state.md R24 item 1), and the letters. -/

namespace Sys2Proof.Machine

open Sys2Proof

variable {c : Chunk}

theorem payload_eq (h : c.len.toNat = c.data.length) : c.payload = c.data := by simp [Chunk.payload, h]

theorem wire_eq (h : c.len.toNat = c.data.length) :
    c.wire = be32Bytes c.len ++ c.typ.bytes ++ c.data ++ be32Bytes c.crc := by simp [Chunk.wire, payload_eq h]

/-- A record has 12 bytes beside its payload (30_encoding.md R76, R81). -/
theorem length_wire (h : c.len.toNat = c.data.length) : c.wire.length = 12 + c.len.toNat := by
  simp [wire_eq h, h]
  omega

/-- A constructed chunk has the four invariants of 10_state.md R24 when its payload is short enough. -/
theorem makeChunk_ok {t : TypeCode} {p : List Byte} {cap : Nat} (ht : t.alpha = true) (hp : p.length ≤ lenMax)
    (hc : p.length ≤ cap) : (makeChunk t p).Ok cap := by
  have hl : (makeChunk t p).len.toNat = p.length := by
    unfold lenMax at hp
    simp [makeChunk]
    omega
  exact ⟨hl, rfl, hl ▸ hp, ht, by simpa [makeChunk] using hc⟩

theorem isAlpha_iff (b : Byte) :
    isAlpha b = true ↔ (0x41 ≤ b.toNat ∧ b.toNat ≤ 0x5A) ∨ (0x61 ≤ b.toNat ∧ b.toNat ≤ 0x7A) := by
  simp [isAlpha]

/-- Fields of a record read the same where two buffers agree on the field's bytes. -/
theorem memByte_congr {m m' : Memory} {a : Nat} (h : m[a]? = m'[a]?) : memByte m a = memByte m' a := by
  simp [memByte, h]

theorem be32At_congr {m m' : Memory} {off : Nat} (h : ∀ a, off ≤ a → a < off + 4 → m[a]? = m'[a]?) :
    be32At m off = be32At m' off := by
  unfold be32At
  rw [memByte_congr (h off _ _), memByte_congr (h (off + 1) _ _), memByte_congr (h (off + 2) _ _),
    memByte_congr (h (off + 3) _ _)] <;> omega

theorem typeAt_congr {m m' : Memory} {off : Nat} (h : ∀ a, off ≤ a → a < off + 4 → m[a]? = m'[a]?) :
    typeAt m off = typeAt m' off := by
  unfold typeAt
  rw [memByte_congr (h off _ _), memByte_congr (h (off + 1) _ _), memByte_congr (h (off + 2) _ _),
    memByte_congr (h (off + 3) _ _)] <;> omega

theorem memRead_congr {m m' : Memory} {off n : Nat} (h : ∀ a, off ≤ a → a < off + n → m[a]? = m'[a]?) :
    memRead m off n = memRead m' off n := by
  apply List.ext_getElem?
  intro i
  simp only [memRead, List.getElem?_take, List.getElem?_drop]
  split
  · exact h _ (by omega) (by omega)
  · rfl

end Sys2Proof.Machine
end

