-- ==== Sys2Proof/Laws/Exec.lean ====
section
/-! SUPPORT. What a command can do, said once for all commands. -/

namespace Sys2Proof.Machine

open Sys2Proof

/-- A command that answers a next state either succeeds, `ST.ERR` 0, and writes no register but those of its row of
10_state.md R20, or raises an error with the effects of 60_exceptions.md R197: `InvalidUtf8` and `NoValue` only where it
constructs nothing, `ChecksumMismatch` only in CH.PARSE and on two different CRCs. -/
theorem exec_next_cases {i : Instr} {s t : State} (h : exec i s = .next t) :
    (t.stErr = 0#4 ∧ t.cfg = s.cfg ∧ t.moves = s.moves ∧ t.seen = s.seen ∧
      ∀ r, i.writes r = false → t.SameReg s.toBlock r) ∨
    ∃ e, t = raised i.dest e s ∧ (i.dest ≠ .nothing → e ≠ .invalidUtf8 ∧ e ≠ .noValue) ∧
      ((∃ x f, e = .checksumMismatch x f ∧ x ≠ f ∧ i = .chParse) ∨ ∀ x f, e ≠ .checksumMismatch x f) := by
  cases i
  case crcInit =>
    simp [exec, execCrcInit] at h
    subst h
    exact .inl ⟨rfl, rfl, rfl, rfl, fun r hr => by cases r <;> first | rfl | cases hr⟩
  case crcByte b =>
    simp [exec, execCrcByte] at h
    subst h
    exact .inl ⟨rfl, rfl, rfl, rfl, fun r hr => by cases r <;> first | rfl | cases hr⟩
  case crcBuf =>
    simp [exec, execCrcBuf] at h
    subst h
    exact .inl ⟨rfl, rfl, rfl, rfl, fun r hr => by cases r <;> first | rfl | cases hr⟩
  case crcRead =>
    simp [exec, execCrcRead] at h
    subst h
    exact .inl ⟨rfl, rfl, rfl, rfl, fun r hr => by cases r <;> first | rfl | cases hr⟩
  case crcSum =>
    simp [exec, execCrcSum] at h
    subst h
    exact .inl ⟨rfl, rfl, rfl, rfl, fun r hr => by cases r <;> first | rfl | cases hr⟩
  case ctFromb b0 b1 b2 b3 =>
    simp only [exec, execCtFromb, makeType] at h
    split at h
    · simp at h
      subst h
      exact .inl ⟨rfl, rfl, rfl, rfl, fun r hr => by cases r <;> first | rfl | cases hr⟩
    · simp only [raise_next] at h
      exact .inr ⟨_, h, by simp, by simp⟩
  case ctFroms =>
    simp only [exec, execCtFroms, makeType] at h
    rw [withTextOps_next] at h
    obtain ⟨hto, h⟩ := h
    split at h
    · simp only [raise_next] at h
      exact .inr ⟨_, h, by simp, by simp⟩
    · split at h
      · simp only [raise_next] at h
        exact .inr ⟨_, h, by simp, by simp⟩
      · split at h
        · simp at h
          subst h
          exact .inl ⟨rfl, rfl, rfl, rfl, fun r hr => by cases r <;> first | rfl | cases hr⟩
        · simp only [raise_next] at h
          exact .inr ⟨_, h, by simp, by simp⟩
  case chParse =>
    simp only [exec, execChParse, parseRecord] at h
    split at h
    · simp only [raise_next] at h
      exact .inr ⟨_, h, by simp, by simp⟩
    · split at h
      · simp only [raise_next] at h
        exact .inr ⟨_, h, by simp, by simp⟩
      · split at h
        · cases h
        · split at h
          · simp only [raise_next] at h
            exact .inr ⟨_, h, by simp, by simp⟩
          · split at h
            · simp only [raise_next] at h
              exact .inr ⟨_, h, by simp, by simp⟩
            · split at h
              · rename_i hq
                simp only [raise_next] at h
                exact .inr ⟨_, h, by simp, Or.inl ⟨_, _, rfl, hq, rfl⟩⟩
              · simp at h
                subst h
                exact .inl ⟨rfl, rfl, rfl, rfl, fun r hr => by cases r <;> first | rfl | cases hr⟩
  case chNew =>
    simp only [exec, execChNew, withType] at h
    split at h
    · split at h
      · cases h
      · split at h
        · cases h
        · simp at h
          subst h
          exact .inl ⟨rfl, rfl, rfl, rfl, fun r hr => by cases r <;> first | rfl | cases hr⟩
    · simp only [raise_next] at h
      exact .inr ⟨.noValue, by rw [h]; simp only [Instr.dest], by simp [Instr.dest], by simp⟩
  case ctEq =>
    simp only [exec, execCtEq, withType, withChunk] at h
    split at h
    · split at h
      · simp at h
        subst h
        exact .inl ⟨rfl, rfl, rfl, rfl, fun r hr => by cases r <;> first | rfl | cases hr⟩
      · simp only [raise_next] at h
        exact .inr ⟨.noValue, by rw [h]; simp only [Instr.dest], by simp [Instr.dest], by simp⟩
    · simp only [raise_next] at h
      exact .inr ⟨.noValue, by rw [h]; simp only [Instr.dest], by simp [Instr.dest], by simp⟩
  case ctDisp =>
    simp only [exec, execCtDisp, withTextOps, withType] at h
    split at h
    · split at h
      · simp at h
        subst h
        exact .inl ⟨rfl, rfl, rfl, rfl, fun r hr => by cases r <;> first | rfl | cases hr⟩
      · simp only [raise_next] at h
        exact .inr ⟨.noValue, by rw [h]; simp only [Instr.dest], by simp [Instr.dest], by simp⟩
    · cases h
  case chText =>
    simp only [exec, execChText, withTextOps, withChunk] at h
    split at h
    · split at h
      · split at h
        · simp at h
          subst h
          exact .inl ⟨rfl, rfl, rfl, rfl, fun r hr => by cases r <;> first | rfl | cases hr⟩
        · simp only [raise_next] at h
          exact .inr ⟨.invalidUtf8, by rw [h]; simp only [Instr.dest], by simp [Instr.dest], by simp⟩
      · simp only [raise_next] at h
        exact .inr ⟨.noValue, by rw [h]; simp only [Instr.dest], by simp [Instr.dest], by simp⟩
    · cases h
  all_goals
    (simp only [exec, execCtBytes, execCtCrit, execCtPub, execCtRsv, execCtSafe, execCtFlags,
       execChLen, execChType, execChData, execChCrc, execChSize, execChEmit, withType, withChunk] at h
     split at h
     · simp at h
       subst h
       exact .inl ⟨rfl, rfl, rfl, rfl, fun r hr => by cases r <;> first | rfl | cases hr⟩
     · simp only [raise_next] at h
       exact .inr ⟨.noValue, by rw [h]; simp only [Instr.dest], by simp [Instr.dest], by simp⟩)

end Sys2Proof.Machine
end

