-- ==== Sys2Proof/Laws/PerInstr.lean ====
section
/-! SUPPORT. For every command: its word is one of the words of its row of spec/opcode_table.json. -/

namespace Sys2Proof.Laws.MatchesRow

open Sys2Proof

/-- The command's word matches the row that carries its mnemonic (30_encoding.md R84). -/
def Statement (i : Instr) : Prop := ∃ r ∈ opcodeRows, r.mnemonic = i.mnemonic ∧ r.covers (encode i) = true

theorem crcInit : Statement .crcInit := ⟨⟨"CRC.INIT", 0x0000000000#40, 0xFFFFFFFFFF#40⟩, by decide⟩

theorem crcByte (b : Byte) : Statement (.crcByte b) :=
  ⟨⟨"CRC.BYTE", 0x0100000000#40, 0xFFFFFFFF00#40⟩, by decide, rfl, by
    have h : ∀ b : Byte, OpcodeRow.covers ⟨"CRC.BYTE", 0x0100000000#40, 0xFFFFFFFF00#40⟩ (encode (.crcByte b)) = true := by
      decide +kernel
    exact h b⟩

theorem crcBuf : Statement .crcBuf := ⟨⟨"CRC.BUF", 0x0200000000#40, 0xFFFFFFFFFF#40⟩, by decide⟩

theorem crcRead : Statement .crcRead := ⟨⟨"CRC.READ", 0x0300000000#40, 0xFFFFFFFFFF#40⟩, by decide⟩

theorem crcSum : Statement .crcSum := ⟨⟨"CRC.SUM", 0x0400000000#40, 0xFFFFFFFFFF#40⟩, by decide⟩

theorem ctFromb (b0 b1 b2 b3 : Byte) : Statement (.ctFromb b0 b1 b2 b3) :=
  ⟨⟨"CT.FROMB", 0x1000000000#40, 0xFF00000000#40⟩, by decide, rfl, by
    have mask : ∀ k < 40, (0xFF00000000#40).getLsbD k = decide (32 ≤ k) := by decide
    have row : ∀ k < 40, (0x1000000000#40).getLsbD k = (decide (32 ≤ k) && (0x10#8).getLsbD (k - 32)) := by decide
    have key : ∀ w : Word, (0x10#8 ++ w : CmdWord) &&& 0xFF00000000#40 = 0x1000000000#40 := by
      intro w
      apply BitVec.eq_of_getLsbD_eq
      intro k hk
      rw [BitVec.getLsbD_and, mask k hk, row k hk, BitVec.getLsbD_append]
      by_cases h : k < 32
      · simp [h, Nat.not_le.2 h]
      · simp [h, Nat.not_lt.1 h]
    exact beq_iff_eq.2 (key _)⟩

theorem ctFroms : Statement .ctFroms := ⟨⟨"CT.FROMS", 0x1100000000#40, 0xFFFFFFFFFF#40⟩, by decide⟩

theorem ctBytes : Statement .ctBytes := ⟨⟨"CT.BYTES", 0x1200000000#40, 0xFFFFFFFFFF#40⟩, by decide⟩

theorem ctDisp : Statement .ctDisp := ⟨⟨"CT.DISP", 0x1300000000#40, 0xFFFFFFFFFF#40⟩, by decide⟩

theorem ctCrit : Statement .ctCrit := ⟨⟨"CT.CRIT", 0x1400000000#40, 0xFFFFFFFFFF#40⟩, by decide⟩

theorem ctPub : Statement .ctPub := ⟨⟨"CT.PUB", 0x1500000000#40, 0xFFFFFFFFFF#40⟩, by decide⟩

theorem ctRsv : Statement .ctRsv := ⟨⟨"CT.RSV", 0x1600000000#40, 0xFFFFFFFFFF#40⟩, by decide⟩

theorem ctSafe : Statement .ctSafe := ⟨⟨"CT.SAFE", 0x1700000000#40, 0xFFFFFFFFFF#40⟩, by decide⟩

theorem ctFlags : Statement .ctFlags := ⟨⟨"CT.FLAGS", 0x1800000000#40, 0xFFFFFFFFFF#40⟩, by decide⟩

theorem ctEq : Statement .ctEq := ⟨⟨"CT.EQ", 0x1900000000#40, 0xFFFFFFFFFF#40⟩, by decide⟩

theorem chNew : Statement .chNew := ⟨⟨"CH.NEW", 0x2000000000#40, 0xFFFFFFFFFF#40⟩, by decide⟩

theorem chParse : Statement .chParse := ⟨⟨"CH.PARSE", 0x2100000000#40, 0xFFFFFFFFFF#40⟩, by decide⟩

theorem chLen : Statement .chLen := ⟨⟨"CH.LEN", 0x2200000000#40, 0xFFFFFFFFFF#40⟩, by decide⟩

theorem chType : Statement .chType := ⟨⟨"CH.TYPE", 0x2300000000#40, 0xFFFFFFFFFF#40⟩, by decide⟩

theorem chData : Statement .chData := ⟨⟨"CH.DATA", 0x2400000000#40, 0xFFFFFFFFFF#40⟩, by decide⟩

theorem chCrc : Statement .chCrc := ⟨⟨"CH.CRC", 0x2500000000#40, 0xFFFFFFFFFF#40⟩, by decide⟩

theorem chSize : Statement .chSize := ⟨⟨"CH.SIZE", 0x2600000000#40, 0xFFFFFFFFFF#40⟩, by decide⟩

theorem chEmit : Statement .chEmit := ⟨⟨"CH.EMIT", 0x2700000000#40, 0xFFFFFFFFFF#40⟩, by decide⟩

theorem chText : Statement .chText := ⟨⟨"CH.TEXT", 0x2800000000#40, 0xFFFFFFFFFF#40⟩, by decide⟩

end Sys2Proof.Laws.MatchesRow
end

