-- ==== Sys2Proof/Tests/Slice0.lean ====
section
/-! SUPPORT. Tests, and for every statement with hypotheses a witness that meets them. Expected values are those of
95_test_vectors.md (its numbers V<n>, P<n> stand at each test) or of the rule named. -/

namespace Sys2Proof.Machine.Tests

open Sys2Proof Sys2Proof.Machine

/-- The state an outcome goes on with. -/
def nextOf : Host.Outcome State Fault Refusal → Option State
  | .next t => some t
  | _ => none

/-- The reason an outcome is refused for. -/
def refusedOf : Host.Outcome State Fault Refusal → Option Refusal
  | .refused r => some r
  | _ => none

/-- What one reads of the state after a command. -/
def after {α : Type} (i : Instr) (s : State) (f : State → α) : Option α := (nextOf (exec i s)).map f

/-- The reset state with an input buffer. -/
def input (bytes : List Byte) : State := { State.reset with ibuf := bytes }

/-- A type, an input and a chunk held. -/
def holding (t : TypeCode) (bytes : List Byte) (c : Chunk) : State :=
  { State.reset with ty := some t, ibuf := bytes, ck := some c }

/-- "RuSt" -/
def rust : TypeCode := ⟨0x52#8, 0x75#8, 0x53#8, 0x74#8⟩

/-- "tEXt" -/
def text : TypeCode := ⟨0x74#8, 0x45#8, 0x58#8, 0x74#8⟩

/-- "IEND" -/
def iend : TypeCode := ⟨0x49#8, 0x45#8, 0x4E#8, 0x44#8⟩

/-- The chunk of V27 with payload C3 A9. -/
def accent : Chunk := ⟨2#32, text, [0xC3#8, 0xA9#8], 0xA3FE414D#32⟩

/-- The chunk of V27 with payload C3. -/
def broken : Chunk := ⟨1#32, text, [0xC3#8], 0x4D2B49ED#32⟩

/-- The record of V26 row 1. -/
def iendRecord : List Byte :=
  [0x00#8, 0x00#8, 0x00#8, 0x00#8, 0x49#8, 0x45#8, 0x4E#8, 0x44#8, 0xAE#8, 0x42#8, 0x60#8, 0x82#8]

/-- The record of V27 row 3. -/
def accentRecord : List Byte :=
  [0x00#8, 0x00#8, 0x00#8, 0x02#8, 0x74#8, 0x45#8, 0x58#8, 0x74#8, 0xC3#8, 0xA9#8, 0xA3#8, 0xFE#8, 0x41#8, 0x4D#8]

/-- The machine with a small store: `DCAP` 2, `ICAP` 14, no text commands. -/
def small : Params := ⟨2, 14, false⟩

/-! ### Well-formedness: one ill-formed term for each check, refused -/

theorem test_params_default_wf : Params.standard.wf = true ∧ small.wf = true := by decide

theorem test_params_dcap_above_len_max : Params.wf ⟨2147483648, 4294967295, true⟩ = false := by decide

theorem test_params_icap_below_record : Params.wf ⟨2, 13, true⟩ = false := by decide

theorem test_params_icap_above_32_bits : Params.wf ⟨2, 4294967296, true⟩ = false := by decide

theorem test_text_command_ill_formed_without_text_ops :
    Instr.wf small .ctFroms = false ∧ Instr.wf small .ctDisp = false ∧ Instr.wf small .chText = false ∧
    Instr.wf small .chData = true := by decide

theorem test_host_write_longer_than_icap_ill_formed :
    HostMove.wf small (.write (List.replicate 15 0#8)) = false ∧
    HostMove.wf small (.write (List.replicate 14 0#8)) = true := by decide

/-! ### Decoding: every command's word, written out from 30_encoding.md R72 to R75 -/

theorem test_decode_crc_family :
    decode Params.standard 0x0000000000#40 = .instr .crcInit ∧
    decode Params.standard 0x0100000049#40 = .instr (.crcByte 0x49#8) ∧
    decode Params.standard 0x0200000000#40 = .instr .crcBuf ∧
    decode Params.standard 0x0300000000#40 = .instr .crcRead ∧
    decode Params.standard 0x0400000000#40 = .instr .crcSum := by decide

theorem test_decode_type_family :
    decode Params.standard 0x1052755374#40 = .instr (.ctFromb 0x52#8 0x75#8 0x53#8 0x74#8) ∧
    decode Params.standard 0x1100000000#40 = .instr .ctFroms ∧
    decode Params.standard 0x1200000000#40 = .instr .ctBytes ∧
    decode Params.standard 0x1300000000#40 = .instr .ctDisp ∧
    decode Params.standard 0x1400000000#40 = .instr .ctCrit ∧
    decode Params.standard 0x1500000000#40 = .instr .ctPub ∧
    decode Params.standard 0x1600000000#40 = .instr .ctRsv ∧
    decode Params.standard 0x1700000000#40 = .instr .ctSafe ∧
    decode Params.standard 0x1800000000#40 = .instr .ctFlags ∧
    decode Params.standard 0x1900000000#40 = .instr .ctEq := by decide

theorem test_decode_chunk_family :
    decode Params.standard 0x2000000000#40 = .instr .chNew ∧
    decode Params.standard 0x2100000000#40 = .instr .chParse ∧
    decode Params.standard 0x2200000000#40 = .instr .chLen ∧
    decode Params.standard 0x2300000000#40 = .instr .chType ∧
    decode Params.standard 0x2400000000#40 = .instr .chData ∧
    decode Params.standard 0x2500000000#40 = .instr .chCrc ∧
    decode Params.standard 0x2600000000#40 = .instr .chSize ∧
    decode Params.standard 0x2700000000#40 = .instr .chEmit ∧
    decode Params.standard 0x2800000000#40 = .instr .chText := by decide

/-- V32. -/
theorem test_decode_reserved_op :
    decode Params.standard 0x0500000000#40 = .rejected .reservedOp ∧
    decode Params.standard 0x0F00000000#40 = .rejected .reservedOp ∧
    decode Params.standard 0x1A00000000#40 = .rejected .reservedOp ∧
    decode Params.standard 0x2900000000#40 = .rejected .reservedOp ∧
    decode Params.standard 0xFF00000000#40 = .rejected .reservedOp := by decide

/-- V32. -/
theorem test_decode_reserved_immediate :
    decode Params.standard 0x0000000001#40 = .rejected .reservedImm ∧
    decode Params.standard 0x0100000149#40 = .rejected .reservedImm ∧
    decode Params.standard 0x2100000001#40 = .rejected .reservedImm := by decide

/-- V32. -/
theorem test_decode_text_ops_absent :
    decode small 0x1100000000#40 = .rejected .reservedOp ∧
    decode small 0x1300000000#40 = .rejected .reservedOp ∧
    decode small 0x2800000000#40 = .rejected .reservedOp := by decide

/-- 30_encoding.md R70: bit 0 of the table's numbering is bit 0 of the word. -/
theorem test_decode_table_word :
    decodeTableWord 40 0x2100000000 = some .chParse ∧
    decodeTableWord 40 0x10415A617A = some (.ctFromb 0x41#8 0x5A#8 0x61#8 0x7A#8) ∧
    decodeTableWord 40 0x0500000000 = none := by decide

/-! ### The CRC generator -/

/-- V20. -/
theorem test_crc_step :
    crcStep 0x00000000#32 0x00#8 = 0x00000000#32 ∧ crcStep 0x00000000#32 0x80#8 = 0xEDB88320#32 ∧
    crcStep 0xFFFFFFFF#32 0x00#8 = 0x2DFD1072#32 ∧ crcStep 0x639F4775#32 0x44#8 = 0x51BD9F7D#32 := by decide +kernel

/-- V1, V5, V21. -/
theorem test_crc32 :
    crc32 [] = 0x00000000#32 ∧ crc32 iend.bytes = 0xAE426082#32 ∧
    crc32 [0x31#8, 0x32#8, 0x33#8, 0x34#8, 0x35#8, 0x36#8, 0x37#8, 0x38#8, 0x39#8] = 0xCBF43926#32 := by decide +kernel

/-- P8, its last but one line: `RES` is left. -/
theorem test_crcInit :
    after .crcInit { State.reset with acc := 0x0475BD13#32, res := 0xFB8A42EC#32 } (fun t => (t.acc, t.res)) =
      some (0xFFFFFFFF#32, 0xFB8A42EC#32) := by decide

/-- P1, first byte. -/
theorem test_crcByte : after (.crcByte 0x49#8) State.reset (·.acc) = some 0x22FDE946#32 := by decide +kernel

/-- V20 row 1: the one accumulator and byte that leave the accumulator as it is (log 8). -/
theorem test_crcByte_fixed_point :
    after (.crcByte 0x00#8) { State.reset with acc := 0x00000000#32 } (·.acc) = some 0x00000000#32 := by decide +kernel

/-- V22 step 5: continues from `ACC`. -/
theorem test_crcBuf :
    after .crcBuf { input [0x00#8, 0x00#8] with acc := 0xBE26ED00#32 } (·.acc) = some 0xDEBB20E3#32 := by
  decide +kernel

/-- V22 step 3. -/
theorem test_crcRead :
    after .crcRead { State.reset with acc := 0x2DFD1072#32 } (fun t => (t.res, t.acc)) =
      some (0xD202EF8D#32, 0x2DFD1072#32) := by decide

/-- V21, row FF FF FF FF: the old `ACC` is ignored. -/
theorem test_crcSum :
    after .crcSum { input [0xFF#8, 0xFF#8, 0xFF#8, 0xFF#8] with acc := 0x12345678#32 } (fun t => (t.res, t.acc)) =
      some (0xFFFFFFFF#32, 0x00000000#32) := by decide +kernel

/-! ### The chunk-type unit -/

/-- V23: all four ends of the letter ranges. -/
theorem test_ctFromb_range_ends :
    after (.ctFromb 0x41#8 0x5A#8 0x61#8 0x7A#8) State.reset (fun t => (t.ty, t.stErr)) =
      some (some ⟨0x41#8, 0x5A#8, 0x61#8, 0x7A#8⟩, 0#4) := by decide

/-- V23, P7: the bytes just outside the ranges; a type held before is lost. -/
theorem test_ctFromb_outside :
    after (.ctFromb 0x40#8 0x5A#8 0x61#8 0x7A#8) (holding rust [] accent) (fun t => (t.tyv, t.ckv, t.stErr)) =
      some (false, true, 1#4) ∧
    after (.ctFromb 0x41#8 0x5B#8 0x61#8 0x7A#8) State.reset (·.stErr) = some 1#4 ∧
    after (.ctFromb 0x41#8 0x5A#8 0x60#8 0x7A#8) State.reset (·.stErr) = some 1#4 ∧
    after (.ctFromb 0x41#8 0x5A#8 0x61#8 0x7B#8) State.reset (·.stErr) = some 1#4 := by decide

/-- V23a. -/
theorem test_ctFroms : after .ctFroms (input text.bytes) (fun t => (t.ty, t.stErr)) = some (some text, 0#4) := by decide

/-- V23a: length, then ASCII, then letters. -/
theorem test_ctFroms_order :
    after .ctFroms (input [0x80#8, 0x80#8, 0x80#8, 0x80#8, 0x80#8]) (·.stErr) = some 2#4 ∧
    after .ctFroms (input [0x52#8, 0xC3#8, 0xA9#8, 0x74#8]) (·.stErr) = some 3#4 ∧
    after .ctFroms (input [0x52#8, 0x75#8, 0x31#8, 0x74#8]) (·.stErr) = some 1#4 := by decide

/-- V23c. -/
theorem test_ctBytes : after .ctBytes (holding rust [] accent) (·.obuf) = some [0x52#8, 0x75#8, 0x53#8, 0x74#8] := by decide

/-- P3. -/
theorem test_ctDisp : after .ctDisp (holding rust [] accent) (fun t => (t.obuf, t.olen)) = some (rust.bytes, 4) := by decide

/-- V23b: "RuSt" and "tEXt". -/
theorem test_ctCrit :
    after .ctCrit (holding rust [] accent) (·.res) = some 1#32 ∧
    after .ctCrit (holding text [] accent) (·.res) = some 0#32 := by decide

theorem test_ctPub :
    after .ctPub (holding rust [] accent) (·.res) = some 0#32 ∧
    after .ctPub (holding text [] accent) (·.res) = some 1#32 := by decide

/-- V13: "RuSt" and "Rust". -/
theorem test_ctRsv :
    after .ctRsv (holding rust [] accent) (·.res) = some 1#32 ∧
    after .ctRsv (holding ⟨0x52#8, 0x75#8, 0x73#8, 0x74#8⟩ [] accent) (·.res) = some 0#32 := by decide

/-- V23b: "RuSt" and "IEND"; the opposite sense. -/
theorem test_ctSafe :
    after .ctSafe (holding rust [] accent) (·.res) = some 1#32 ∧
    after .ctSafe (holding iend [] accent) (·.res) = some 0#32 := by decide

/-- V23b. -/
theorem test_ctFlags :
    after .ctFlags (holding rust [] accent) (·.res) = some 0x0000000D#32 ∧
    after .ctFlags (holding iend [] accent) (·.res) = some 0x00000007#32 ∧
    after .ctFlags (holding text [] accent) (·.res) = some 0x0000000E#32 := by decide

/-- V23c. -/
theorem test_ctEq :
    after .ctEq (holding text [] accent) (·.res) = some 1#32 ∧
    after .ctEq (holding iend [] accent) (·.res) = some 0#32 := by decide

/-- V23c: needs both, whichever is missing; `RES` is left. -/
theorem test_ctEq_no_value :
    after .ctEq { holding rust [] accent with ck := none, res := 7#32 } (fun t => (t.stErr, t.res)) =
      some (8#4, 7#32) ∧
    after .ctEq { holding rust [] accent with ty := none, res := 7#32 } (fun t => (t.stErr, t.res)) =
      some (8#4, 7#32) := by decide

/-! ### The chunk parser and framer -/

/-- V27 row 3. -/
theorem test_chNew :
    after .chNew { holding text [0xC3#8, 0xA9#8] broken with acc := 9#32 } (fun t => (t.ck, t.acc)) =
      some (some accent, 9#32) := by decide +kernel

/-- 42_chunk_framer.md R153, R202: outside the precondition refused, but `NoValue` first. -/
theorem test_chNew_store_too_small :
    refusedOf (exec .chNew { holding text [1#8, 2#8, 3#8] accent with cfg := small }) = some .storeTooSmall ∧
    after .chNew { input [1#8, 2#8, 3#8] with cfg := small } (·.stErr) = some 8#4 := by decide

/-- V26 rows 1, 4, 5, 7. -/
theorem test_chParse :
    after .chParse (input (iendRecord ++ [0x99#8, 0x98#8])) (fun t => (t.ck, t.ty, t.stErr)) =
      some (some ⟨0#32, iend, [], 0xAE426082#32⟩, none, 0#4) ∧
    after .chParse (input (0x80#8 :: iendRecord.drop 1)) (·.stErr) = some 4#4 ∧
    after .chParse (input (0x7F#8 :: 0xFF#8 :: 0xFF#8 :: 0xFF#8 :: iendRecord.drop 4)) (·.stErr) = some 5#4 := by
  decide +kernel

/-- V26 rows 2, 10, 11. -/
theorem test_chParse_fails :
    after .chParse (input (iendRecord.take 11)) (·.stErr) = some 5#4 ∧
    after .chParse (input [0#8, 0#8, 0#8, 0#8, 0x49#8, 0x31#8, 0x4E#8, 0x44#8, 0#8, 0#8, 0#8, 0#8]) (fun t => (t.stErr, t.stExp)) =
      some (1#4, 0#32) ∧
    after .chParse (input (iendRecord.take 8 ++ [0#8, 0#8, 0#8, 0#8])) (fun t => (t.stErr, t.stExp, t.stFnd, t.ckv)) =
      some (6#4, 0xAE426082#32, 0x00000000#32, false) := by decide +kernel

/-- V31: one inverted length bit that is not detected. -/
theorem test_chParse_undetected_flip :
    after .chParse (input (iendRecord ++ [0x65#8, 0x03#8, 0x77#8, 0xD7#8])) (·.ck) =
      some (some ⟨0#32, iend, [], 0xAE426082#32⟩) ∧
    (makeChunk iend [0xAE#8, 0x42#8, 0x60#8, 0x82#8]).wire =
      flipBit (iendRecord ++ [0x65#8, 0x03#8, 0x77#8, 0xD7#8]) 3 2 := by decide +kernel

/-- V28. -/
theorem test_chLen : after .chLen (holding rust [] accent) (·.res) = some 0x00000002#32 := by decide

theorem test_chType : after .chType (holding rust [] accent) (·.ty) = some (some text) := by decide

theorem test_chData : after .chData (holding rust [] accent) (·.obuf) = some [0xC3#8, 0xA9#8] := by decide

theorem test_chCrc : after .chCrc (holding rust [] accent) (·.res) = some 0xA3FE414D#32 := by decide

theorem test_chSize : after .chSize (holding rust [] accent) (·.res) = some 0x0000000E#32 := by decide

/-- V27 row 3. -/
theorem test_chEmit : after .chEmit (holding rust [] accent) (·.obuf) = some accentRecord := by decide

theorem test_chText :
    after .chText (holding rust [] accent) (fun t => (t.obuf, t.stErr)) = some ([0xC3#8, 0xA9#8], 0#4) := by decide

/-- V28: the chunk stays held, `OBUF` is left. -/
theorem test_chText_invalid :
    after .chText { holding rust [] broken with obuf := [7#8] } (fun t => (t.obuf, t.stErr, t.ck)) =
      some ([7#8], 7#4, some broken) := by decide

/-- V28, last sentence. -/
theorem test_accessors_no_value :
    [Instr.chLen, .chType, .chData, .chCrc, .chSize, .chEmit, .chText].map (fun i => after i State.reset id) =
      List.replicate 7 (some { State.reset with stErr := 8#4 }) := by decide

/-- V29, the rows that accept. -/
theorem test_utf8_valid :
    [ [], [0x7F#8], [0xC2#8, 0x80#8], [0xDF#8, 0xBF#8], [0xE0#8, 0xA0#8, 0x80#8], [0xED#8, 0x9F#8, 0xBF#8],
      [0xEE#8, 0x80#8, 0x80#8], [0xEF#8, 0xBF#8, 0xBF#8], [0xF0#8, 0x90#8, 0x80#8, 0x80#8],
      [0xF4#8, 0x8F#8, 0xBF#8, 0xBF#8] ].all utf8Valid = true := by decide

/-- V29, the rows that refuse. -/
theorem test_utf8_invalid :
    [ [0x80#8], [0xC3#8], [0xC3#8, 0x28#8], [0x41#8, 0xC3#8], [0xC0#8, 0x80#8], [0xC1#8, 0xBF#8], [0xE0#8, 0x9F#8, 0xBF#8],
      [0xED#8, 0xA0#8, 0x80#8], [0xED#8, 0xBF#8, 0xBF#8], [0xF0#8, 0x8F#8, 0xBF#8, 0xBF#8],
      [0xF4#8, 0x90#8, 0x80#8, 0x80#8], [0xF5#8, 0x80#8, 0x80#8, 0x80#8], [0xFF#8],
      [0xF0#8, 0x90#8, 0x80#8] ].any utf8Valid = false := by decide

/-! ### The host's moves and a step -/

/-- P1, first line, placed as the first word after reset. -/
theorem test_step_with_fetch_word :
    (nextOf (step (State.reset.withFetchWord 40 0x0100000049))).map (fun t => (t.acc, t.moves)) =
      some (0x22FDE946#32, []) := by decide +kernel

/-- V32. -/
theorem test_step_refuses_reserved_word :
    refusedOf (step (State.reset.withFetchWord 40 0x0100000149)) = some (.reservedWord .reservedImm) := by decide

/-- 20_memory.md R60, R63. -/
theorem test_host_write_and_loop :
    (nextOf (step { State.reset with moves := [.write [1#8, 2#8]] })).map (fun t => (t.ibuf, t.ilen)) =
      some ([1#8, 2#8], 2) ∧
    (nextOf (step { input [9#8] with obuf := [1#8, 2#8], moves := [.loop] })).map (·.ibuf) = some [1#8, 2#8] ∧
    refusedOf (step { State.reset with cfg := small, moves := [.write (List.replicate 15 0#8)] }) =
      some .inputTooLong := by decide

/-- 20_memory.md R61: what the host reads. -/
theorem test_host_read :
    (nextOf (step { holding rust [] accent with res := 5#32, obuf := [1#8], moves := [.read] })).map (·.seen) =
      some [.all ⟨5#32, 0#4, 0#32, 0#32, [1#8]⟩] := by decide

/-- 20_memory.md R63, 70_reset_and_hazards.md R232: the copy is a read of `OBUF[0..OLEN)`, and counts as one. -/
theorem test_loop_is_a_read :
    (nextOf (step { State.reset with obuf := [1#8], moves := [.loop] })).map (fun t => (t.ibuf, t.seen)) =
      some ([1#8], [.output [1#8]]) := by decide

/-- 70_reset_and_hazards.md R220. -/
theorem test_host_reset :
    (nextOf (step { holding rust [1#8] accent with acc := 0#32, moves := [.reset] })).map (·.toBlock) =
      some Block.reset := by decide

/-! ### The assembler -/

/-- P1, P2, P6, as the listings have them. -/
theorem test_parse_command :
    parseLine "CRC.BYTE 'I'        ; ACC = 0x22FDE946".toList = some (some (.cmd (.crcByte 0x49#8))) ∧
    parseLine "CT.FROMB \"RuSt\"".toList = some (some (.cmd (.ctFromb 0x52#8 0x75#8 0x53#8 0x74#8))) ∧
    parseLine "CT.FROMB 0x52 0x75 0x53 0x74".toList = some (some (.cmd (.ctFromb 0x52#8 0x75#8 0x53#8 0x74#8))) ∧
    parseLine "CH.EMIT".toList = some (some (.cmd .chEmit)) ∧ parseLine "CH.EMIT 0x01".toList = none := by decide +kernel

theorem test_parse_directive :
    parseLine ".ibuf 49 45 4E 44".toList = some (some (.ibuf iend.bytes)) ∧
    parseLine ".ibuf \"tEXt\"".toList = some (some (.ibuf text.bytes)) ∧
    parseLine ".ibuf empty".toList = some (some (.ibuf [])) ∧
    parseLine ".expect RES = 0x0000002A".toList = some (some (.expect ⟨.res, .num 42⟩)) ∧
    parseLine "CRC.BYTES \"IEND\"".toList = some (some (.crcBytes iend.bytes)) ∧
    parseLine "CRC.BYTES".toList = some (some (.crcBytes [])) ∧
    parseLine "  ; nothing".toList = some none := by decide +kernel

/-- Log 9: the forms that R88 and R89 do not speak of. -/
theorem test_parse_chosen_forms :
    parseLine ".ibuf".toList = some (some (.ibuf [])) ∧
    parseLine "CT.FROMB 'R' 0x75 'S' 0x74".toList =
      some (some (.cmd (.ctFromb 0x52#8 0x75#8 0x53#8 0x74#8))) := by decide +kernel

/-- Log 15: the characters that open a literal, inside a one-character literal and inside a string. -/
theorem test_parse_quote_characters :
    parseLine "CRC.BYTE ''' ; x".toList = some (some (.cmd (.crcByte 0x27#8))) ∧
    parseLine "CRC.BYTES ''' '\"' ';' 0x49".toList = some (some (.crcBytes [0x27#8, 0x22#8, 0x3B#8, 0x49#8])) ∧
    parseLine ".ibuf \"a'; b\" ; it's".toList = some (some (.ibuf [0x61#8, 0x27#8, 0x3B#8, 0x20#8, 0x62#8])) ∧
    parseLine "CT.FROMB \"a\"bc\"".toList = none := by decide +kernel

theorem test_assemble_pseudo :
    assembleLine (.crcBytes [0x49#8, 0x45#8]) = [.issue 0x0100000049#40, .issue 0x0100000045#40] := by decide

/-- The values of a listing's `.expect` (30_encoding.md R89). -/
theorem test_expect :
    expectHolds ⟨.res, .num 5⟩ ⟨5#32, 0#4, 0#32, 0#32, [1#8]⟩ = true ∧
    expectHolds ⟨.obuf, .bytes [1#8]⟩ ⟨5#32, 0#4, 0#32, 0#32, [1#8]⟩ = true ∧
    expectHolds ⟨.olen, .num 2⟩ ⟨5#32, 0#4, 0#32, 0#32, [1#8]⟩ = false := by decide

/-! ### Witnesses: for every statement with hypotheses, what meets them, clause by clause -/

theorem accent_ok (cap : Nat) (h : 2 ≤ cap) : accent.Ok cap :=
  ⟨by decide, by decide +kernel, by decide, by decide, (Memory.wf_iff _ _).2 h⟩

theorem broken_ok (cap : Nat) (h : 1 ≤ cap) : broken.Ok cap :=
  ⟨by decide, by decide +kernel, by decide, by decide, (Memory.wf_iff _ _).2 h⟩

/-- From what a test reads to the next state it is read of. -/
theorem next_of_after {α : Type} {i : Instr} {s : State} {f : State → α} {a : α} (h : after i s f = some a) :
    ∃ t, exec i s = .next t ∧ f t = a := by
  unfold after nextOf at h
  split at h
  · rename_i t ht
    exact ⟨t, ht, Option.some.inj h⟩
  · cases h

/-- A machine with a type, an input, an output and a chunk, and these moves to come. -/
def busy (moves : List HostMove) : State :=
  { holding rust [0xC3#8, 0xA9#8] accent with obuf := rust.bytes, moves := moves }

theorem busy_inv (moves : List HostMove) : (busy moves).Inv where
  params := rfl
  type_alpha := by
    intro t h
    cases h
    decide
  chunk_ok := by
    intro c h
    cases h
    exact accent_ok _ (show 2 ≤ lenMax by decide)
  input_fits := rfl
  output_fits := rfl
  err_code := show 0 ≤ 8 by decide

theorem witness_AccIsCrcOfBytesFed :
    ∃ t, State.reset.acc = crcAcc 0xFFFFFFFF#32 [] ∧ step (State.reset.withFetchWord 40 0x0100000049) = .next t :=
  ⟨_, rfl, rfl⟩

theorem witness_CrcBufIsOneByteAfterAnother :
    ∃ t, exec .crcBuf { busy [] with ibuf := [0xC3#8] } = .next t ∧ t.stErr = 0#4 := ⟨_, rfl, rfl⟩

theorem witness_CrcCommandsCannotFail : (∃ b, Instr.crcByte 0xFF#8 = .crcByte b) ∧ Instr.crcSum = .crcSum :=
  ⟨⟨_, rfl⟩, rfl⟩

theorem witness_CrcTellsOneFlippedBit : 0 < 8 ∧ 7 < 8 := by decide

theorem witness_FromBytesValidates :
    Letters 0x41#8 0x5A#8 0x61#8 0x7A#8 ∧ ¬ Letters 0x40#8 0x5A#8 0x61#8 0x7A#8 ∧
    ¬ Letters 0x41#8 0x5B#8 0x61#8 0x7A#8 ∧ ¬ Letters 0x41#8 0x5A#8 0x60#8 0x7A#8 ∧
    ¬ Letters 0x41#8 0x5A#8 0x61#8 0x7B#8 := by simp [Letters, Letter]

theorem witness_FromStringChecksInOrder :
    ({ State.reset with cfg := small } : State).cfg.textOps = false ∧
    (State.reset.cfg.textOps = true ∧ (input [1#8, 2#8, 3#8]).ilen ≠ 4 ∧
      (input [1#8, 2#8, 3#8, 4#8, 5#8]).ilen ≠ 4) ∧
    ((input [0x52#8, 0x75#8, 0x80#8, 0x74#8]).ibuf = [0x52#8, 0x75#8, 0x80#8, 0x74#8] ∧ 0x80 ≤ (0x80#8).toNat) ∧
    ((0x7F#8).toNat < 0x80 ∧ ¬ Letters 0x52#8 0x75#8 0x7F#8 0x74#8) ∧ Letters 0x52#8 0x75#8 0x53#8 0x74#8 := by
  simp [Letters, Letter, State.reset, Params.standard, small, input, Block.ilen]

/-- The cases of `TypeBytesAndDisplay` and `PredicateCommandsReadBitFive`. -/
theorem witness_commands_that_need_a_type :
    (busy []).ty = some rust ∧ State.reset.ty = none ∧ State.reset.cfg.textOps = true ∧
    ({ busy [] with cfg := small } : State).cfg.textOps = false := by decide

theorem witness_TypeEqualityIsByteForByte :
    (busy []).ty = some rust ∧ (busy []).ck = some accent ∧ State.reset.ty = none ∧
    ({ busy [] with ck := none } : State).ck = none := by decide

theorem witness_FlagsPackThePredicates :
    ∃ a b c d, (busy []).ty = some rust ∧ exec .ctCrit (busy []) = .next a ∧ exec .ctPub (busy []) = .next b ∧
      exec .ctRsv (busy []) = .next c ∧ exec .ctSafe (busy []) = .next d := ⟨_, _, _, _, rfl, rfl, rfl, rfl, rfl⟩

theorem witness_PredicateSymmetry : TypeCode.alpha ⟨0x41#8, 0x5A#8, 0x61#8, 0x7A#8⟩ = true := by decide

theorem witness_DisplayIsIdempotent :
    ∃ s : State, s.Inv ∧ s.cfg.textOps = true ∧ s.ty = some rust ∧
      s.moves = .issue (encode .ctDisp) :: .loop :: .issue (encode .ctFroms) :: .issue (encode .ctDisp) :: [] :=
  ⟨busy _, busy_inv _, rfl, rfl, rfl⟩

theorem witness_ConstructFromTypeAndInput :
    State.reset.ty = none ∧ (busy []).ty = some rust ∧
    ((busy []).ilen ≤ 2 ^ 31 - 1 ∧ (busy []).ilen ≤ (busy []).cfg.dcap) ∧
    (({ busy [] with cfg := ⟨2, 14, true⟩ } : State).ilen ≤ 2) ∧
    (({ busy [] with cfg := ⟨1, 13, true⟩ } : State).ilen ≤ 2 ^ 31 - 1 ∧
      1 < ({ busy [] with cfg := ⟨1, 13, true⟩ } : State).ilen) := by decide

theorem exists_input (n : Nat) : ∃ bytes : List Byte, bytes.length = n := ⟨List.replicate n 0#8, List.length_replicate⟩

theorem witness_ConstructFromTypeAndInput_too_long : ∃ s : State, s.ty = some rust ∧ 2 ^ 31 - 1 < s.ilen := by
  obtain ⟨bytes, h⟩ := exists_input (2 ^ 31)
  exact ⟨{ busy [] with ibuf := bytes }, rfl, by simp [Block.ilen, h]⟩

/-- `ParseReportsFirstFailingStep`: too short; a length just above 2^31 - 1. -/
theorem witness_ParseReportsFirstFailingStep_short_or_long :
    (input (iendRecord.take 11)).ilen < 12 ∧
    (input (0x80#8 :: iendRecord.drop 1)).ibuf =
      0x80#8 :: 0#8 :: 0#8 :: 0#8 :: 0x49#8 :: 0x45#8 :: 0x4E#8 :: 0x44#8 :: iendRecord.drop 8 ∧
    4 ≤ (iendRecord.drop 8).length ∧ 2 ^ 31 - 1 < bigEndian 0x80#8 0#8 0#8 0#8 := by decide +kernel

/-- `ParseReportsFirstFailingStep`: length 2^31 - 1 within the default store, the body too short; and a length one above a
store of 2. -/
theorem witness_ParseReportsFirstFailingStep_truncated_or_refused :
    (input (0x7F#8 :: 0xFF#8 :: 0xFF#8 :: 0xFF#8 :: iendRecord.drop 4)).ibuf =
      0x7F#8 :: 0xFF#8 :: 0xFF#8 :: 0xFF#8 :: 0x49#8 :: 0x45#8 :: 0x4E#8 :: 0x44#8 :: iendRecord.drop 8 ∧
    4 ≤ (iendRecord.drop 8).length ∧ bigEndian 0x7F#8 0xFF#8 0xFF#8 0xFF#8 ≤ 2 ^ 31 - 1 ∧
    bigEndian 0x7F#8 0xFF#8 0xFF#8 0xFF#8 ≤ State.reset.cfg.dcap ∧
    (iendRecord.drop 8).length < bigEndian 0x7F#8 0xFF#8 0xFF#8 0xFF#8 + 4 ∧
    bigEndian 0#8 0#8 0#8 3#8 ≤ 2 ^ 31 - 1 ∧ small.dcap < bigEndian 0#8 0#8 0#8 3#8 := by decide +kernel

/-- `ParseReportsFirstFailingStep`: a whole record with two payload bytes, with its own CRC and with another. -/
theorem witness_ParseReportsFirstFailingStep_whole_record :
    (input accentRecord).ibuf =
      0#8 :: 0#8 :: 0#8 :: 2#8 :: 0x74#8 :: 0x45#8 :: 0x58#8 :: 0x74#8 ::
        ([0xC3#8, 0xA9#8] ++ 0xA3#8 :: 0xFE#8 :: 0x41#8 :: 0x4D#8 :: []) ∧
    bigEndian 0#8 0#8 0#8 2#8 ≤ 2 ^ 31 - 1 ∧ bigEndian 0#8 0#8 0#8 2#8 ≤ State.reset.cfg.dcap ∧
    [0xC3#8, 0xA9#8].length = bigEndian 0#8 0#8 0#8 2#8 ∧
    (crc32 (0x74#8 :: 0x45#8 :: 0x58#8 :: 0x74#8 :: [0xC3#8, 0xA9#8])).toNat =
      bigEndian 0xA3#8 0xFE#8 0x41#8 0x4D#8 ∧
    (crc32 (0x74#8 :: 0x45#8 :: 0x58#8 :: 0x74#8 :: [0xC3#8, 0xA9#8])).toNat ≠
      bigEndian 0xA3#8 0xFE#8 0x41#8 0x4C#8 := by decide +kernel

theorem witness_ParseReportsFirstFailingStep_letters :
    Letters 0x74#8 0x45#8 0x58#8 0x74#8 ∧ ¬ Letters 0x74#8 0x45#8 0x5B#8 0x74#8 := by simp [Letters, Letter]

theorem witness_ParseAcceptsExactlyValidRecords :
    accent.Ok 2 ∧ ({ input (accentRecord ++ [7#8]) with cfg := small } : State).ibuf = accent.wire ++ [7#8] :=
  ⟨accent_ok 2 (by decide), by decide⟩

theorem witness_ParseIgnoresTrailingBytes :
    (∃ t, exec .chParse (input iendRecord) = .next t ∧ t.stErr = 0#4) ∧
    ∃ t, exec .chParse (input (iendRecord.take 8 ++ [0#8, 0#8, 0#8, 0#8])) = .next t ∧ t.stErr = 6#4 :=
  ⟨next_of_after (by decide +kernel), next_of_after (by decide +kernel)⟩

theorem witness_ParseOfProperPrefixIsTruncated :
    accent.Ok State.reset.cfg.dcap ∧ 0 < 12 + accent.len.toNat ∧ 13 < 12 + accent.len.toNat ∧
    (input []).ibuf = accent.wire.take 0 ∧ (input (accentRecord.take 13)).ibuf = accent.wire.take 13 :=
  ⟨accent_ok _ (by decide), by decide⟩

/-- The cases of `ScalarAccessors`, `TypeAndDataAccessors` and `EmitWritesTheWireFormat`. -/
theorem witness_commands_that_need_a_chunk :
    (busy []).ck = some accent ∧ State.reset.ck = none ∧ accent.len.toNat = accent.data.length ∧
    accent.Ok (busy []).cfg.dcap := ⟨rfl, rfl, by decide, accent_ok _ (by decide)⟩

theorem witness_TextIsThePayloadIfUtf8 :
    ({ busy [] with cfg := small } : State).cfg.textOps = false ∧ (busy []).cfg.textOps = true ∧
    State.reset.ck = none ∧ (busy []).ck = some accent ∧ utf8Valid accent.data = true ∧
    (holding rust [] broken).ck = some broken ∧ broken.len.toNat = broken.data.length ∧
    utf8Valid broken.data = false := by decide

theorem witness_SizesAgree :
    (busy []).Inv ∧ (busy []).ck = some accent ∧ ∃ x, exec .chText (busy []) = .next x ∧ x.stErr = 0#4 :=
  ⟨busy_inv _, rfl, next_of_after (by decide)⟩

theorem witness_ParseOfEmitOfConstructIsIdentity :
    ∃ s : State, s.Inv ∧ s.ty = some rust ∧ s.ilen ≤ s.cfg.dcap ∧
      s.moves = .issue (encode .chNew) :: .issue (encode .chEmit) :: .loop :: .issue (encode .chParse) :: [] :=
  ⟨busy _, busy_inv _, rfl, by decide, rfl⟩

/-- A type byte that stays a letter, one that does not, the first payload byte, the last CRC byte. -/
theorem witness_FlippedBitAfterLengthIsDetected :
    accent.Ok State.reset.cfg.dcap ∧ 13 < 12 + accent.len.toNat ∧
    (∀ b, (flipBit accent.wire 4 5)[4]? = some b → Letter b) ∧
    (∀ b, (flipBit accent.wire 7 3)[7]? = some b → ¬ Letter b) ∧
    (input (flipBit accent.wire 8 0)).ibuf = flipBit accent.wire 8 0 ∧
    (input (flipBit accent.wire 13 7)).ibuf = flipBit accent.wire 13 7 := by
  refine ⟨accent_ok _ (by decide), by decide, ?_, ?_, rfl, rfl⟩ <;>
    (intro b h
     cases h
     unfold Letter
     decide)

/-- Bit 31; bit 0, clear, with room in the store and without; bit 1, set. -/
theorem witness_FlippedLengthBit :
    accent.Ok State.reset.cfg.dcap ∧ accent.Ok small.dcap ∧ accent.len.getLsbD 0 = false ∧
    accent.len.toNat + 2 ^ 0 ≤ State.reset.cfg.dcap ∧ small.dcap < accent.len.toNat + 2 ^ 0 ∧
    accent.len.getLsbD 1 = true ∧ accent.len.getLsbD 30 = false ∧
    (input (flipBit accent.wire 0 7)).ibuf = flipBit accent.wire (3 - 31 / 8) (31 % 8) :=
  ⟨accent_ok _ (by decide), accent_ok _ (by decide), by decide, by decide, by decide, by decide, by decide, by decide⟩

theorem witness_TypeReadBackIsEqual :
    ∃ t u, exec .chType (busy []) = .next t ∧ t.stErr = 0#4 ∧ exec .chNew (busy []) = .next u ∧ u.stErr = 0#4 :=
  ⟨_, _, rfl, rfl, rfl, rfl⟩

theorem witness_NoValueChangesOnlyTheCode :
    Instr.wf State.reset.cfg .ctDisp = true ∧ Instr.needsType .ctDisp = true ∧ State.reset.tyv = false ∧
    Instr.wf State.reset.cfg .chText = true ∧ Instr.needsChunk .chText = true ∧ State.reset.ckv = false := by decide

/-- One success, one error and one checksum mismatch: the hypotheses of `ErrorChangesNothingElse`,
`ErrorCodeIsNotSticky`, `MismatchRegistersKeepTheirValues`, `CommandsWriteOnlyTheirRegisters` and
`CommandsStoreOnlyInTheirBuffer`. -/
theorem witness_next_states :
    (∃ t, exec .crcInit State.reset = .next t ∧ t.stErr = 0#4) ∧
    (∃ t, exec .chParse State.reset = .next t ∧ t.stErr = 5#4) ∧
    ∃ t, exec .chParse (input (iendRecord.take 8 ++ [0#8, 0#8, 0#8, 0#8])) = .next t ∧ t.stErr = 6#4 :=
  ⟨next_of_after (by decide), next_of_after (by decide), next_of_after (by decide +kernel)⟩

theorem witness_CommandsStoreOnlyInTheirBuffer :
    ∃ t, exec .ctBytes (busy []) = .next t ∧ t.olen ≤ 4 ∧ t.byteAt .obuf 3 = some 0x74#8 := ⟨_, rfl, by decide, by decide⟩

theorem witness_CommandsCompleteInsideTheirPrecondition :
    Instr.Pre .chNew (busy []) ∧ ¬ Instr.Pre .ctDisp { busy [] with cfg := small } ∧
    ¬ Instr.Pre .chParse { input (0#8 :: 0#8 :: 0#8 :: 3#8 :: iendRecord.drop 4) with cfg := small } := by
  refine ⟨⟨by decide, fun _ _ => by decide, fun h => nomatch h⟩, fun h => absurd h.1 (by decide), fun h => ?_⟩
  exact absurd (h.2.2 rfl (by decide) (by decide)) (by decide)

theorem witness_AccIsPrivateToTheCrcUnit : ∃ t, exec .chLen (busy []) = .next t ∧ Instr.chLen ≠ .crcInit :=
  ⟨_, rfl, by decide⟩

theorem witness_StepRunsTheIssuedCommand :
    (busy [.issue 0x2100000000#40]).moves = .issue 0x2100000000#40 :: [] ∧
    decode (busy []).cfg 0x2100000000#40 = .instr .chParse ∧
    (busy [.issue 0x2100000001#40]).moves = .issue 0x2100000001#40 :: [] ∧
    decode (busy []).cfg 0x2100000001#40 = .rejected .reservedImm := by decide

/-- Each range's ends; a text code with and without text commands; an immediate bit in each form. -/
theorem witness_ReservedWordsAreRefused :
    [0x0500000000#40, 0x0F00000000#40, 0x1A00000000#40, 0x1F00000000#40, 0x2900000000#40, 0xFFFFFFFFFF#40].map
        (fun w : CmdWord => w.toNat / 2 ^ 32) = [0x05, 0x0F, 0x1A, 0x1F, 0x29, 0xFF] ∧
    (small.textOps = false ∧ (0x1100000000#40).toNat / 2 ^ 32 = 0x11) ∧
    ((0x0100000100#40).toNat / 2 ^ 32 = 0x01 ∧ (0x0100000100#40).toNat % 2 ^ 32 / 2 ^ 8 ≠ 0) ∧
    ((0x2780000000#40).toNat / 2 ^ 32 = 0x27 ∧ (0x2780000000#40).toNat % 2 ^ 32 ≠ 0) ∧
    Params.standard.textOps = true ∧ (0x2800000001#40).toNat / 2 ^ 32 = 0x28 := by decide

theorem witness_HostWritesReadsAndCopies :
    ({ busy [.write (List.replicate 14 0#8)] with cfg := small } : State).moves = .write (List.replicate 14 0#8) :: [] ∧
    ([] : List Byte).length ≤ small.icap ∧ (List.replicate 14 0#8 : List Byte).length ≤ small.icap ∧
    (busy [.read]).moves = .read :: [] ∧ (busy [.loop]).moves = .loop :: [] ∧
    (busy [.loop]).olen ≤ (busy [.loop]).cfg.icap := by decide

theorem witness_ResetGivesTheResetValues : (busy [.reset, .read]).moves = .reset :: [.read] := rfl

theorem witness_HeldChunkDoesNotAliasInput :
    ∃ s : State, s.ck = some accent ∧ (∀ w ∈ [[1#8], []], w.length ≤ s.cfg.icap) ∧
      s.moves = [[1#8], []].map .write ++ [] :=
  ⟨busy [.write [1#8], .write []], rfl, by simp [busy, holding, State.reset, Params.standard], rfl⟩

theorem witness_PseudoInstructionFeedsItsBytes :
    (busy [.issue 0x0100000049#40, .issue 0x0100000045#40]).moves = assembleLine (.crcBytes [0x49#8, 0x45#8]) ++ [] := by
  decide

theorem witness_RunMakesEveryMoveAndStops :
    (∃ t, (busy [.issue 0x0000000000#40]).RunsTo (busy [.issue 0x0000000000#40]).moves.length t) ∧
    (busy []).moves = [] := ⟨⟨_, rfl⟩, rfl⟩

/-- A run with a read and a copy among its moves. -/
theorem witness_ResultHoldsEverythingRead :
    (∃ t, step (busy [.loop]) = .next t) ∧ (∃ t, (busy [.read, .write [1#8], .loop]).RunsTo 3 t) :=
  ⟨⟨_, rfl⟩, ⟨_, rfl⟩⟩

theorem witness_DecodeOfEncode :
    Instr.wf small (.ctFromb 0xFF#8 0x00#8 0xFF#8 0x00#8) = true ∧ Instr.wf Params.standard .chText = true := by decide

theorem witness_EncodeOfDecode :
    decode small 0x10FF00FF00#40 = .instr (.ctFromb 0xFF#8 0x00#8 0xFF#8 0x00#8) := by decide

theorem witness_DecoderAgreesWithTheOpcodeTable :
    decode Params.standard 0x01000000FF#40 = .instr (.crcByte 0xFF#8) ∧ Params.standard.textOps = true ∧
    (⟨"CRC.BYTE", 0x0100000000#40, 0xFFFFFFFF00#40⟩ : OpcodeRow) ∈ opcodeRows ∧
    OpcodeRow.covers ⟨"CRC.BYTE", 0x0100000000#40, 0xFFFFFFFF00#40⟩ 0x01000000FF#40 = true := by decide

theorem witness_StepKeepsInvariant :
    ∃ t, (busy [.issue 0x2000000000#40]).Inv ∧ step (busy [.issue 0x2000000000#40]) = .next t := ⟨_, busy_inv _, rfl⟩

end Sys2Proof.Machine.Tests
end

section
/-! PROOFS. The state's rules of 10_state.md: `ST.ERR` (R27), `ST.EXP` and `ST.FND` (R28), the reset table (R33). -/

namespace Sys2Proof.Machine

open Sys2Proof

/-! The codes an outcome can leave in `ST.ERR`. -/

/-- An outcome that answers a next state leaves 0 or one of these codes in `ST.ERR`. -/
def CodesIn (codes : List (BitVec 4)) (o : Host.Outcome State Fault Refusal) : Prop :=
  ∀ t, o = .next t → t.stErr = 0#4 ∨ t.stErr ∈ codes

namespace CodesIn

variable {codes : List (BitVec 4)} {s : State}

theorem succeed : CodesIn codes (succeed s) := fun t h => by
  rw [succeed_next] at h
  exact .inl (h ▸ rfl)

theorem raise {d : Dest} {e : ErrorKind} (he : e.code ∈ codes) : CodesIn codes (raise d e s) := fun t h => by
  rw [raise_next] at h
  exact .inr (h ▸ he)

theorem refused {r : Refusal} : CodesIn codes (.refused r) := fun _ h => nomatch h

theorem ite {p : Prop} [Decidable p] {a b : Host.Outcome State Fault Refusal} (ha : CodesIn codes a)
    (hb : CodesIn codes b) : CodesIn codes (if p then a else b) := by
  split
  · exact ha
  · exact hb

theorem withType {k : TypeCode → Host.Outcome State Fault Refusal} (h8 : 8#4 ∈ codes) (hk : ∀ c, CodesIn codes (k c)) :
    CodesIn codes (withType s k) := fun t h => by
  obtain ⟨-, rfl⟩ | ⟨c, -, h⟩ := withType_next.1 h
  · exact .inr h8
  · exact hk c t h

theorem withChunk {k : Chunk → Host.Outcome State Fault Refusal} (h8 : 8#4 ∈ codes) (hk : ∀ c, CodesIn codes (k c)) :
    CodesIn codes (withChunk s k) := fun t h => by
  obtain ⟨-, rfl⟩ | ⟨c, -, h⟩ := withChunk_next.1 h
  · exact .inr h8
  · exact hk c t h

theorem withTextOps {k : Host.Outcome State Fault Refusal} (hk : CodesIn codes k) :
    CodesIn codes (withTextOps s k) := ite hk refused

theorem makeType {c : TypeCode} (h1 : 1#4 ∈ codes) : CodesIn codes (makeType c s) := ite succeed (raise h1)

theorem parseRecord {len : Word} (h1 : 1#4 ∈ codes) (h6 : 6#4 ∈ codes) : CodesIn codes (parseRecord len s) :=
  ite (raise h1) (ite (raise h6) succeed)

end CodesIn

/-- Every command leaves in `ST.ERR` 0 or a code of its row of 60_exceptions.md R190. -/
theorem exec_codesIn_raises (i : Instr) (s : State) : CodesIn i.raises (exec i s) := by
  cases i with
  | crcInit | crcByte | crcBuf | crcRead | crcSum => exact .succeed
  | ctFromb => exact .makeType (List.mem_singleton_self _)
  | ctFroms =>
    exact .withTextOps (.ite (.raise (by decide)) (.ite (.raise (by decide)) (.makeType (by decide))))
  | ctBytes | ctCrit | ctPub | ctRsv | ctSafe | ctFlags => exact .withType (by decide) fun _ => .succeed
  | ctDisp => exact .withTextOps (.withType (by decide) fun _ => .succeed)
  | ctEq => exact .withType (by decide) fun _ => .withChunk (by decide) fun _ => .succeed
  | chNew => exact .withType (by decide) fun _ => .ite .refused (.ite .refused .succeed)
  | chParse =>
    exact .ite (.raise (by decide)) (.ite (.raise (by decide)) (.ite .refused (.ite (.raise (by decide))
      (.parseRecord (by decide) (by decide)))))
  | chLen | chType | chData | chCrc | chSize | chEmit => exact .withChunk (by decide) fun _ => .succeed
  | chText =>
    exact .withTextOps (.withChunk (by decide) fun _ => .ite .succeed (.raise (by decide)))

/-- Codes 9 to 15 are never written (10_state.md R27). -/
theorem exec_stErr_le {i : Instr} {s t : State} (h : exec i s = .next t) : t.stErr.toNat ≤ 8 := by
  obtain ⟨h0, -⟩ | ⟨e, rfl, -⟩ := exec_next_cases h
  · simp [h0]
  · exact e.code_le

/-- No command reads `ST.ERR`, and every way a command ends overwrites it: the two runs meet in the same outcome by
computation, whatever the guards of the command decide. -/
theorem exec_withStErr (i : Instr) (s : State) (e : BitVec 4) : exec i { s with stErr := e } = exec i s := by
  cases i <;> rfl

/-- Settles O39: the outcome by `exec_withStErr`, the codes by the row of each command. -/
theorem errorCodeIsNotSticky : Obligations.ErrorCodeIsNotSticky := fun i s e =>
  ⟨exec_withStErr i s e, fun t h => ⟨exec_codesIn_raises i s t h, exec_stErr_le h⟩⟩

/-! The mismatch registers. -/

/-- An error other than a checksum mismatch keeps `ST.EXP` and `ST.FND` (60_exceptions.md R197 item 3). -/
theorem raised_keeps_mismatch_registers {e : ErrorKind} (he : ∀ x f, e ≠ .checksumMismatch x f) (d : Dest) (s : State) :
    (raised d e s).stExp = s.stExp ∧ (raised d e s).stFnd = s.stFnd := by
  cases e with
  | checksumMismatch x f => exact absurd rfl (he x f)
  | _ => exact ⟨rfl, rfl⟩

/-- No other kind has the code of a checksum mismatch (60_exceptions.md R190). -/
theorem ErrorKind.code_ne_six {e : ErrorKind} (he : ∀ x f, e ≠ .checksumMismatch x f) : e.code ≠ 6#4 := by
  cases e with
  | checksumMismatch x f => exact absurd rfl (he x f)
  | _ => simp [ErrorKind.code]

/-- What CH.PARSE can do, in three ways (42_chunk_framer.md R155): an error before the checksum, the checksum mismatch
of a whole record, or success. -/
theorem execChParse_next_cases {s t : State} (h : execChParse s = .next t) :
    (∃ e, (∀ x f, e ≠ .checksumMismatch x f) ∧ t = raised .ck e s) ∨
    (recordSize (be32At s.ibuf offLength).toNat ≤ s.ilen ∧
      t = raised .ck (.checksumMismatch (crc32 (memRead s.ibuf offType (4 + (be32At s.ibuf offLength).toNat)))
        (be32At s.ibuf (offCrc (be32At s.ibuf offLength).toNat))) s) ∨
    ∃ c, t = { s with ck := some c, stErr := 0#4 } := by
  simp only [execChParse, parseRecord] at h
  split at h
  next => exact .inl ⟨_, by simp, raise_next.1 h⟩
  split at h
  next => exact .inl ⟨_, by simp, raise_next.1 h⟩
  split at h
  next => cases h
  split at h
  next => exact .inl ⟨_, by simp, raise_next.1 h⟩
  next whole =>
    split at h
    next => exact .inl ⟨_, by simp, raise_next.1 h⟩
    split at h
    next => exact .inr (.inl ⟨Nat.not_lt.1 whole, raise_next.1 h⟩)
    next => exact .inr (.inr ⟨_, succeed_next.1 h⟩)

/-- No command but CH.PARSE writes `ST.EXP` or `ST.FND` (10_state.md R20, column "written by"). -/
theorem writes_mismatch_registers {i : Instr} (hi : i ≠ .chParse) : i.writes .stExp = false ∧ i.writes .stFnd = false := by
  cases i with
  | chParse => exact absurd rfl hi
  | _ => exact ⟨rfl, rfl⟩

theorem exec_keeps_mismatch_registers {i : Instr} {s t : State} (h : exec i s = .next t) (hi : i ≠ .chParse) :
    t.stExp = s.stExp ∧ t.stFnd = s.stFnd := by
  obtain ⟨-, -, -, -, same⟩ | ⟨e, rfl, -, ⟨-, -, -, -, hp⟩ | he⟩ := exec_next_cases h
  · exact ⟨same _ (writes_mismatch_registers hi).1, same _ (writes_mismatch_registers hi).2⟩
  · exact absurd hp hi
  · exact raised_keeps_mismatch_registers he _ _

/-- Settles O40: CH.PARSE by its three ways to end, every other command by its frame. -/
theorem mismatchRegistersKeepTheirValues : Obligations.MismatchRegistersKeepTheirValues := by
  intro i s t h
  by_cases hi : i = .chParse
  · subst hi
    obtain ⟨e, he, rfl⟩ | ⟨whole, rfl⟩ | ⟨c, rfl⟩ := execChParse_next_cases h
    · exact ⟨fun _ => raised_keeps_mismatch_registers he _ _, fun h6 => absurd h6.2 (ErrorKind.code_ne_six he)⟩
    · exact ⟨fun h6 => absurd ⟨rfl, rfl⟩ h6, fun _ => ⟨_, rfl, whole, rfl, rfl⟩⟩
    · exact ⟨fun _ => ⟨rfl, rfl⟩, fun h6 => absurd h6.2 (by simp)⟩
  · exact ⟨fun _ => exec_keeps_mismatch_registers h hi, fun h6 => absurd h6.1 hi⟩

/-! The reset table. -/

@[simp] theorem reset_space (sp : Space) : State.reset.space sp = [] := by cases sp <;> rfl

/-- After reset no offset of any space is valid (10_state.md R33). -/
theorem reset_byteAt (sp : Space) (a : Nat) : State.reset.byteAt sp a = none := by simp [Block.byteAt]

/-- Settles O47: the registers by the literals of `Block.reset`, the three spaces by `reset_byteAt`. -/
theorem firstStateIsTheResetState : Obligations.FirstStateIsTheResetState :=
  ⟨rfl, rfl, rfl, rfl, rfl, rfl, rfl, rfl, rfl, rfl, rfl, reset_byteAt⟩

end Sys2Proof.Machine
end

section
/-! PROOFS. The decoder's verdict on a reserved word (30_encoding.md R85, R86), the text commands and the display of a
type (41_chunk_type.md R126 to R128, 42_chunk_framer.md R170), and when a command completes (60_exceptions.md R209). -/

namespace Sys2Proof.Machine

open Sys2Proof

variable {s : State}

/-! The guards, where their condition is known. -/

theorem withType_of_some {k : TypeCode → Host.Outcome State Fault Refusal} {c : TypeCode} (h : s.ty = some c) :
    withType s k = k c := by simp [withType, h]

theorem withType_of_none {k : TypeCode → Host.Outcome State Fault Refusal} (h : s.ty = none) :
    withType s k = .next { s with stErr := 8#4 } := by simp [withType, h, raise]

theorem withChunk_of_some {k : Chunk → Host.Outcome State Fault Refusal} {c : Chunk} (h : s.ck = some c) :
    withChunk s k = k c := by simp [withChunk, h]

theorem withChunk_of_none {k : Chunk → Host.Outcome State Fault Refusal} (h : s.ck = none) :
    withChunk s k = .next { s with stErr := 8#4 } := by simp [withChunk, h, raise]

theorem withTextOps_of_true {k : Host.Outcome State Fault Refusal} (h : s.cfg.textOps = true) :
    withTextOps s k = k := by simp [withTextOps, h]

theorem withTextOps_of_false {k : Host.Outcome State Fault Refusal} (h : s.cfg.textOps = false) :
    withTextOps s k = .refused .textOpAbsent := by simp [withTextOps, h]

/-! Making a type of four bytes (41_chunk_type.md R125). -/

theorem alpha_iff_letters (b0 b1 b2 b3 : Byte) : TypeCode.alpha ⟨b0, b1, b2, b3⟩ = true ↔ Letters b0 b1 b2 b3 := by
  simp only [TypeCode.alpha, Bool.and_eq_true, isAlpha_iff, Letters, Letter, and_assoc]

theorem makeType_of_letters {b0 b1 b2 b3 : Byte} (h : Letters b0 b1 b2 b3) :
    makeType ⟨b0, b1, b2, b3⟩ s = .next { s with ty := some ⟨b0, b1, b2, b3⟩, stErr := 0#4 } := by
  rw [makeType, if_pos ((alpha_iff_letters ..).2 h), succeed]

theorem makeType_of_not_letters {b0 b1 b2 b3 : Byte} (h : ¬ Letters b0 b1 b2 b3) :
    makeType ⟨b0, b1, b2, b3⟩ s = .next { s with ty := none, stErr := 1#4 } := by
  rw [makeType, if_neg (mt (alpha_iff_letters ..).1 h), raise, raised_ty_invalidTypeByte]

/-! CT.FROMS, CT.BYTES and CT.DISP. -/

theorem nonAscii_iff (b0 b1 b2 b3 : Byte) :
    TypeCode.nonAscii ⟨b0, b1, b2, b3⟩ = true ↔
      0x80 ≤ b0.toNat ∨ 0x80 ≤ b1.toNat ∨ 0x80 ≤ b2.toNat ∨ 0x80 ≤ b3.toNat := by
  simp only [TypeCode.nonAscii, Bool.or_eq_true, decide_eq_true_eq, or_assoc]

/-- The length is checked first (60_exceptions.md R192). -/
theorem execCtFroms_of_wrong_length (ht : s.cfg.textOps = true) (h : s.ilen ≠ 4) :
    execCtFroms s = .next { s with ty := none, stErr := 2#4 } := by
  rw [execCtFroms, withTextOps_of_true ht, if_pos h, raise, raised_ty_wrongLength]

/-- On four bytes CT.FROMS checks for ASCII and is otherwise `makeType`, which is all of CT.FROMB. -/
theorem execCtFroms_of_four {b0 b1 b2 b3 : Byte} (ht : s.cfg.textOps = true) (hb : s.ibuf = [b0, b1, b2, b3]) :
    execCtFroms s =
      if TypeCode.nonAscii ⟨b0, b1, b2, b3⟩ = true then .next { s with ty := none, stErr := 3#4 }
      else makeType ⟨b0, b1, b2, b3⟩ s := by
  have four : s.ilen = 4 := by simp [Block.ilen, hb]
  have operand : typeAt s.ibuf 0 = ⟨b0, b1, b2, b3⟩ := by rw [hb]; rfl
  rw [execCtFroms, withTextOps_of_true ht, if_neg (not_not.2 four), operand, raise, raised_ty_nonAscii]

/-- Settles O15: the length by `execCtFroms_of_wrong_length`, the checks on four bytes by `execCtFroms_of_four`. -/
theorem fromStringChecksInOrder : Obligations.FromStringChecksInOrder := by
  refine ⟨by decide, fun s => ⟨withTextOps_of_false, execCtFroms_of_wrong_length, fun b0 b1 b2 b3 ht hb => ⟨?_, ?_⟩⟩⟩
  · intro high
    exact (execCtFroms_of_four ht hb).trans (if_pos ((nonAscii_iff ..).2 high))
  · intro low
    have ascii : ¬ TypeCode.nonAscii ⟨b0, b1, b2, b3⟩ = true := by
      rw [nonAscii_iff]
      omega
    have asFromb : exec .ctFroms s = makeType ⟨b0, b1, b2, b3⟩ s := (execCtFroms_of_four ht hb).trans (if_neg ascii)
    exact ⟨asFromb, fun h => asFromb.trans (makeType_of_letters h), fun h => asFromb.trans (makeType_of_not_letters h)⟩

/-- CT.DISP is CT.BYTES where it exists (41_chunk_type.md R128: the text of a type is its bytes). -/
theorem execCtDisp_eq_execCtBytes (h : s.cfg.textOps = true) : execCtDisp s = execCtBytes s := withTextOps_of_true h

/-- Settles O16: CT.BYTES by the guard on `TY`, CT.DISP as CT.BYTES behind the guard on `TEXT_OPS`. -/
theorem typeBytesAndDisplay : Obligations.TypeBytesAndDisplay := by
  refine ⟨by decide, by decide, fun s => ⟨fun c hc => ?_, fun hn => ?_, withTextOps_of_false⟩⟩
  · have bytes : execCtBytes s = .next { s with obuf := c.bytes, stErr := 0#4 } := withType_of_some hc
    exact ⟨bytes, fun h => (execCtDisp_eq_execCtBytes h).trans bytes⟩
  · have bytes : execCtBytes s = .next { s with stErr := 8#4 } := withType_of_none hn
    exact ⟨bytes, fun h => (execCtDisp_eq_execCtBytes h).trans bytes⟩

/-! CH.TEXT. -/

/-- On a held chunk the whole of CH.TEXT is the test of its data (42_chunk_framer.md R170). -/
theorem execChText_of_chunk {c : Chunk} (ht : s.cfg.textOps = true) (hc : s.ck = some c)
    (hl : c.len.toNat = c.data.length) :
    execChText s =
      if utf8Valid c.data = true then .next { s with obuf := c.data, stErr := 0#4 }
      else .next { s with stErr := 7#4 } := by
  rw [execChText, withTextOps_of_true ht, withChunk_of_some hc, payload_eq hl, returnBytes, succeed, raise,
    raised_invalidUtf8]

/-- Settles O30: the guards on `TEXT_OPS` and `CK.V`, then `execChText_of_chunk`. -/
theorem textIsThePayloadIfUtf8 : Obligations.TextIsThePayloadIfUtf8 := by
  refine ⟨by decide, fun s => ⟨withTextOps_of_false, fun ht hn => ?_, fun c ht hc hl => ⟨fun hv => ?_, fun hv => ?_⟩⟩⟩
  · exact (withTextOps_of_true ht).trans (withChunk_of_none hn)
  · exact (execChText_of_chunk ht hc hl).trans (if_pos hv)
  · exact (execChText_of_chunk ht hc hl).trans (if_neg (Bool.eq_false_iff.1 hv))

/-! Completing: answering a next state. -/

/-- The outcome is a next state. -/
def Completes (o : Host.Outcome State Fault Refusal) : Prop := ∃ t, o = .next t

/-- There is no fault, so what does not complete is refused. -/
theorem refused_iff_not_completes {o : Host.Outcome State Fault Refusal} : (∃ r, o = .refused r) ↔ ¬ Completes o := by
  cases o with
  | next t => simp [Completes]
  | fault f => cases f
  | refused r => simp [Completes]

namespace Completes

@[simp] theorem succeed : Completes (succeed s) := ⟨_, rfl⟩

@[simp] theorem raise {d : Dest} {e : ErrorKind} : Completes (raise d e s) := ⟨_, rfl⟩

@[simp] theorem not_refused {r : Refusal} : ¬ Completes (.refused r) := fun ⟨_, h⟩ => nomatch h

theorem ite_iff {p : Prop} [Decidable p] {a b : Host.Outcome State Fault Refusal} :
    Completes (if p then a else b) ↔ (p → Completes a) ∧ (¬ p → Completes b) := by
  split <;> simp [*]

theorem ite {p : Prop} [Decidable p] {a b : Host.Outcome State Fault Refusal} (ha : Completes a) (hb : Completes b) :
    Completes (if p then a else b) := ite_iff.2 ⟨fun _ => ha, fun _ => hb⟩

/-- A guard that raises `NoValue` completes, so the command is refused only by what stands behind it. -/
theorem withType_iff {k : TypeCode → Host.Outcome State Fault Refusal} :
    Completes (withType s k) ↔ ∀ c, s.ty = some c → Completes (k c) := by
  cases h : s.ty with
  | none => simp [withType_of_none h, Completes]
  | some c => simp [withType_of_some h]

theorem withType {k : TypeCode → Host.Outcome State Fault Refusal} (h : ∀ c, Completes (k c)) :
    Completes (withType s k) := withType_iff.2 fun c _ => h c

theorem withChunk {k : Chunk → Host.Outcome State Fault Refusal} (h : ∀ c, Completes (k c)) :
    Completes (withChunk s k) := by
  cases hc : s.ck with
  | none => exact ⟨_, withChunk_of_none hc⟩
  | some c => exact withChunk_of_some hc ▸ h c

/-- A text command that completes behind its guard completes exactly where it exists. -/
theorem withTextOps_iff {k : Host.Outcome State Fault Refusal} (h : Completes k) :
    Completes (withTextOps s k) ↔ s.cfg.textOps = true := by
  cases ht : s.cfg.textOps with
  | false => simp [withTextOps_of_false ht]
  | true => simpa [withTextOps_of_true ht] using h

theorem makeType {c : TypeCode} : Completes (makeType c s) := ite succeed raise

theorem parseRecord {len : Word} : Completes (parseRecord len s) := ite raise (ite raise succeed)

end Completes

/-- CH.NEW is refused only with a type held and a payload outside R153. -/
theorem completes_execChNew_iff :
    Completes (execChNew s) ↔ (s.tyv = true → s.ilen ≤ lenMax ∧ s.ilen ≤ s.cfg.dcap) := by
  simp only [execChNew, Completes.withType_iff, Completes.ite_iff, Completes.not_refused, Completes.succeed, Block.tyv,
    Option.isSome_iff_exists, imp_false, imp_true_iff, and_true, not_lt, forall_exists_index]
  exact forall₂_congr fun _ _ => ⟨fun h => ⟨h.1, h.2 h.1⟩, fun h => ⟨h.1, fun _ => h.2⟩⟩

/-- CH.PARSE is refused only on a legal length above `DCAP` (42_chunk_framer.md R156), its length field at
`offLength = 0`. -/
theorem completes_execChParse_iff :
    Completes (execChParse s) ↔
      (12 ≤ s.ilen → (be32At s.ibuf 0).toNat ≤ lenMax → (be32At s.ibuf 0).toNat ≤ s.cfg.dcap) := by
  simp only [execChParse, Completes.ite_iff, Completes.not_refused, Completes.raise, Completes.parseRecord,
    imp_false, imp_true_iff, and_true, true_and, not_lt]
  rfl

/-- A text command's whole precondition is that it exists. -/
theorem pre_iff_of_isText {i : Instr} (hi : i.isText = true) : i.Pre s ↔ s.cfg.textOps = true := by
  have hn : i ≠ .chNew := by
    rintro rfl
    cases hi
  have hp : i ≠ .chParse := by
    rintro rfl
    cases hi
  simp [Instr.Pre, Instr.wf, hi, hn, hp]

theorem pre_chNew_iff :
    Instr.Pre .chNew s ↔ (s.tyv = true → s.ilen ≤ lenMax ∧ s.ilen ≤ s.cfg.dcap) := by
  simp [Instr.Pre, Instr.wf, Instr.isText]

theorem pre_chParse_iff :
    Instr.Pre .chParse s ↔
      (12 ≤ s.ilen → (be32At s.ibuf 0).toNat ≤ lenMax → (be32At s.ibuf 0).toNat ≤ s.cfg.dcap) := by
  simp [Instr.Pre, Instr.wf, Instr.isText]

/-- A command that is neither a text command nor CH.NEW nor CH.PARSE has no precondition. -/
theorem pre_of_unconditional {i : Instr} (hi : i.isText = false) (hn : i ≠ .chNew) (hp : i ≠ .chParse) : i.Pre s :=
  ⟨by simp [Instr.wf, hi], fun h => absurd h hn, fun h => absurd h hp⟩

theorem completes_exec_iff_pre (i : Instr) (s : State) : Completes (exec i s) ↔ i.Pre s := by
  cases i with
  | crcInit | crcByte | crcBuf | crcRead | crcSum =>
    exact iff_of_true .succeed (pre_of_unconditional rfl nofun nofun)
  | ctFromb => exact iff_of_true .makeType (pre_of_unconditional rfl nofun nofun)
  | ctFroms =>
    exact (Completes.withTextOps_iff (.ite .raise (.ite .raise .makeType))).trans (pre_iff_of_isText rfl).symm
  | ctBytes | ctCrit | ctPub | ctRsv | ctSafe | ctFlags =>
    exact iff_of_true (.withType fun _ => .succeed) (pre_of_unconditional rfl nofun nofun)
  | ctDisp => exact (Completes.withTextOps_iff (.withType fun _ => .succeed)).trans (pre_iff_of_isText rfl).symm
  | ctEq =>
    exact iff_of_true (.withType fun _ => .withChunk fun _ => .succeed) (pre_of_unconditional rfl nofun nofun)
  | chNew => exact completes_execChNew_iff.trans pre_chNew_iff.symm
  | chParse => exact completes_execChParse_iff.trans pre_chParse_iff.symm
  | chLen | chType | chData | chCrc | chSize | chEmit =>
    exact iff_of_true (.withChunk fun _ => .succeed) (pre_of_unconditional rfl nofun nofun)
  | chText =>
    exact (Completes.withTextOps_iff (.withChunk fun _ => .ite .succeed .raise)).trans (pre_iff_of_isText rfl).symm

/-- Settles O43: a command completes exactly inside its precondition, and is refused exactly where it does not complete. -/
theorem commandsCompleteInsideTheirPrecondition : Obligations.CommandsCompleteInsideTheirPrecondition := fun i s =>
  ⟨completes_exec_iff_pre i s, refused_iff_not_completes.trans (not_congr (completes_exec_iff_pre i s))⟩

/-! The decoder's verdict on a reserved word. -/

theorem cmdOp_toNat (w : CmdWord) : (cmdOp w).toNat = w.toNat / 2 ^ 32 := by
  have := w.isLt
  simp only [cmdOp, BitVec.extractLsb'_toNat, Nat.shiftRight_eq_div_pow]
  omega

theorem cmdImm_toNat (w : CmdWord) : (cmdImm w).toNat = w.toNat % 2 ^ 32 := by simp [cmdImm]

variable {p : Params} {op : Byte} {imm : Word}

/-- An operation code of a command without an operand, whatever `TEXT_OPS` is (R72, R75). -/
def PlainOp (n : Nat) : Prop :=
  n = 0x00 ∨ (0x02 ≤ n ∧ n ≤ 0x04) ∨ n = 0x12 ∨ (0x14 ≤ n ∧ n ≤ 0x19) ∨ (0x20 ≤ n ∧ n ≤ 0x27)

/-- An operation code of a text command (R72, R85). -/
def TextOp (n : Nat) : Prop := n = 0x11 ∨ n = 0x13 ∨ n = 0x28

/-- An operation code of no command, whatever `TEXT_OPS` is (R85). -/
def UnassignedOp (n : Nat) : Prop := (0x05 ≤ n ∧ n ≤ 0x0F) ∨ (0x1A ≤ n ∧ n ≤ 0x1F) ∨ 0x29 ≤ n

theorem decodeFields_of_plainOp (h : PlainOp op.toNat) : ∃ i, decodeFields p op imm = decodePlain i imm := by
  unfold decodeFields
  generalize op.toNat = n at h
  obtain rfl | ⟨_, _⟩ | rfl | ⟨_, _⟩ | ⟨_, _⟩ := h
  · exact ⟨_, rfl⟩
  · interval_cases n <;> exact ⟨_, rfl⟩
  · exact ⟨_, rfl⟩
  · interval_cases n <;> exact ⟨_, rfl⟩
  · interval_cases n <;> exact ⟨_, rfl⟩

theorem decodeFields_of_textOp (h : TextOp op.toNat) : ∃ i, decodeFields p op imm = decodeText p i imm := by
  unfold decodeFields
  generalize op.toNat = n at h
  obtain rfl | rfl | rfl := h <;> exact ⟨_, rfl⟩

theorem decodeFields_of_crcByteOp (h : op.toNat = 0x01) : decodeFields p op imm = decodeCrcByte imm := by
  simp only [decodeFields, h]

theorem decodeFields_of_unassignedOp (h : UnassignedOp op.toNat) :
    decodeFields p op imm = .rejected .reservedOp := by
  unfold decodeFields
  unfold UnassignedOp at h
  split
  any_goals omega
  rfl

theorem decodePlain_of_ne_zero {i : Instr} (h : imm.toNat ≠ 0) : decodePlain i imm = .rejected .reservedImm :=
  if_neg fun h0 => h (by simp [h0])

theorem decodeText_of_absent {i : Instr} (h : p.textOps = false) : decodeText p i imm = .rejected .reservedOp := by
  simp [decodeText, h]

theorem decodeText_of_present {i : Instr} (h : p.textOps = true) : decodeText p i imm = decodePlain i imm := if_pos h

/-- A bit of `imm[31:8]` is set (R73). -/
theorem decodeCrcByte_of_high (h : imm.toNat / 2 ^ 8 ≠ 0) : decodeCrcByte imm = .rejected .reservedImm := by
  refine if_neg fun h0 => h ?_
  have high := congrArg BitVec.toNat h0
  simp only [BitVec.extractLsb'_toNat, Nat.shiftRight_eq_div_pow, BitVec.ofNat_eq_ofNat, BitVec.toNat_ofNat] at high
  have := imm.isLt
  omega

/-- Settles O54: the verdict by the kind of the operation code, then by the immediate. -/
theorem reservedWordsAreRefused : Obligations.ReservedWordsAreRefused := by
  rintro p w _ _ rfl rfl
  rw [← cmdOp_toNat, ← cmdImm_toNat]
  refine ⟨fun hop => ?_, fun ⟨hop, himm⟩ => ?_, fun ⟨hop, himm⟩ => ?_⟩
  · have kind : UnassignedOp (cmdOp w).toNat ∨ (p.textOps = false ∧ TextOp (cmdOp w).toNat) := by
      simpa only [UnassignedOp, TextOp, or_assoc] using hop
    obtain unassigned | ⟨absent, text⟩ := kind
    · exact decodeFields_of_unassignedOp unassigned
    · obtain ⟨i, hi⟩ := decodeFields_of_textOp text
      exact hi.trans (decodeText_of_absent absent)
  · exact (decodeFields_of_crcByteOp hop).trans (decodeCrcByte_of_high himm)
  · have kind : PlainOp (cmdOp w).toNat ∨ (p.textOps = true ∧ TextOp (cmdOp w).toNat) := by
      simpa only [PlainOp, TextOp, or_assoc] using hop
    obtain plain | ⟨present, text⟩ := kind
    · obtain ⟨i, hi⟩ := decodeFields_of_plainOp plain
      exact hi.trans (decodePlain_of_ne_zero himm)
    · obtain ⟨i, hi⟩ := decodeFields_of_textOp text
      exact hi.trans ((decodeText_of_present present).trans (decodePlain_of_ne_zero himm))

end Sys2Proof.Machine
end

section
/-! PROOFS. What the five CRC commands do and leave unchanged (40_crc_generator.md R105 to R110), and the two vectors of
R111. -/

namespace Sys2Proof.Machine

open Sys2Proof

/-! Each CRC command answers one next state; what the update does not name is as before. -/

theorem exec_crcInit (s : State) : exec .crcInit s = .next { s with acc := crcInitial, stErr := 0#4 } := rfl

theorem exec_crcByte (b : Byte) (s : State) :
    exec (.crcByte b) s = .next { s with acc := crcStep s.acc b, stErr := 0#4 } := rfl

theorem exec_crcBuf (s : State) : exec .crcBuf s = .next { s with acc := crcAcc s.acc s.ibuf, stErr := 0#4 } := by
  simp [exec, execCrcBuf, succeed]

theorem exec_crcRead (s : State) : exec .crcRead s = .next { s with res := s.acc ^^^ crcFinalXor, stErr := 0#4 } := rfl

/-- With `crc32` for what CRC.SUM returns (R100). -/
theorem exec_crcSum (s : State) :
    exec .crcSum s = .next { s with acc := crcAcc crcInitial s.ibuf, res := crc32 s.ibuf, stErr := 0#4 } := by
  simp [exec, execCrcSum, returnWord, succeed, crc32]

/-- Settles O1: the word by computation, the next state by `exec_crcInit`. -/
theorem crcInitRestarts : Obligations.CrcInitRestarts := ⟨by decide, exec_crcInit⟩

/-- Settles O4: the word by computation, the next state by `exec_crcBuf`. -/
theorem crcBufFeedsWholeBuffer : Obligations.CrcBufFeedsWholeBuffer := ⟨by decide, exec_crcBuf⟩

/-- Settles O6: the word by computation, the next state by `exec_crcRead`. -/
theorem crcReadAppliesFinalXor : Obligations.CrcReadAppliesFinalXor := ⟨by decide, exec_crcRead⟩

/-- Settles O7: the word by computation, the next state by `exec_crcSum`. -/
theorem crcSumReturnsTheCrc : Obligations.CrcSumReturnsTheCrc := ⟨by decide, exec_crcSum⟩

/-! The family's footprint (R110). -/

/-- A CRC command computes `ACC` and `RES` from `ACC`, `RES` and `IBUF[0..ILEN)` alone, sets `ST.ERR` to 0, and touches
nothing else. -/
theorem exec_crc_footprint {i : Instr}
    (hi : (∃ b, i = .crcByte b) ∨ i = .crcInit ∨ i = .crcBuf ∨ i = .crcRead ∨ i = .crcSum) :
    ∃ acc' res' : Word → Word → Memory → Word, ∀ s : State, exec i s =
      .next { s with acc := acc' s.acc s.res s.ibuf, res := res' s.acc s.res s.ibuf, stErr := 0#4 } := by
  obtain ⟨b, rfl⟩ | rfl | rfl | rfl | rfl := hi
  · exact ⟨fun a _ _ => crcStep a b, fun _ r _ => r, exec_crcByte b⟩
  · exact ⟨fun _ _ _ => crcInitial, fun _ r _ => r, exec_crcInit⟩
  · exact ⟨fun a _ => crcAcc a, fun _ r _ => r, exec_crcBuf⟩
  · exact ⟨fun a _ _ => a, fun a _ _ => a ^^^ crcFinalXor, exec_crcRead⟩
  · exact ⟨fun _ _ => crcAcc crcInitial, fun _ _ => crc32, exec_crcSum⟩

/-- Settles O9: the type, the chunk, the output and the mismatch registers are outside the footprint, so the same update
answers both machines. -/
theorem crcCommandsCannotFail : Obligations.CrcCommandsCannotFail := by
  intro i s ty ck hi
  obtain ⟨acc', res', footprint⟩ := exec_crc_footprint hi
  exact ⟨_, footprint s, rfl, rfl, rfl, rfl, footprint { s with ty := ty, ck := ck }⟩

/-! The two vectors (R111). -/

/-- Settles O10: both CRCs by computation, bit by bit as R101 gives the step. -/
theorem crcRequiredVectors : Obligations.CrcRequiredVectors := ⟨by decide +kernel, by decide +kernel⟩

end Sys2Proof.Machine
end

section
/-! PROOFS. The chunk-type unit: making a type of four bytes (41_chunk_type.md R125), the predicates of bit 5 and their
packing (R121 to R124, R129 to R133), and equality with the chunk's type (R134, R135). -/

namespace Sys2Proof.Machine

open Sys2Proof

variable {s : State}

/-! CT.FROMB. -/

/-- `op` stands above `imm[31:0]` (30_encoding.md R70). -/
theorem encode_toNat (i : Instr) : (encode i).toNat = i.op.toNat * 2 ^ 32 + i.imm.toNat := by
  rw [encode, BitVec.toNat_append, ← Nat.shiftLeft_add_eq_or_of_lt i.imm.isLt, Nat.shiftLeft_eq]

theorem imm_ctFromb_toNat (b0 b1 b2 b3 : Byte) : (Instr.ctFromb b0 b1 b2 b3).imm.toNat = bigEndian b0 b1 b2 b3 :=
  be32_toNat b0 b1 b2 b3

/-- Settles O14: the word by its two fields, the outcome by whether `makeType` finds four letters. -/
theorem fromBytesValidates : Obligations.FromBytesValidates := fun b0 b1 b2 b3 s =>
  ⟨by simp [encode_toNat, imm_ctFromb_toNat, Instr.op], makeType_of_letters, makeType_of_not_letters⟩

/-! Bit 5 of a byte, as the mask 0x20 reads it (00_scope.md R8). -/

theorem and_0x20_eq (b : Byte) : b &&& 0x20#8 = if bit5 b = true then 0x20#8 else 0x00#8 := BitVec.and_twoPow b 5

theorem bit5_eq_decide_set (b : Byte) : bit5 b = decide (b &&& 0x20#8 = 0x20#8) := by
  rw [and_0x20_eq]
  cases bit5 b <;> decide

theorem not_bit5_eq_decide_clear (b : Byte) : (!bit5 b) = decide (b &&& 0x20#8 = 0x00#8) := by
  rw [and_0x20_eq]
  cases bit5 b <;> decide

theorem boolWord_decide (p : Prop) [Decidable p] : boolWord (decide p) = if p then 1#32 else 0#32 := by
  simp only [boolWord, decide_eq_true_eq]

/-! The predicate commands. -/

/-- A command that reads only `TY` and returns a scalar, on a machine that holds a type. -/
theorem withType_returnWord {f : TypeCode → Word} {c : TypeCode} (h : s.ty = some c) :
    withType s (fun t => returnWord (f t) s) = .next { s with res := f c, stErr := 0#4 } := withType_of_some h

theorem exec_ctCrit {c : TypeCode} (h : s.ty = some c) :
    exec .ctCrit s = .next { s with res := boolWord (isCritical c), stErr := 0#4 } := withType_returnWord h

theorem exec_ctPub {c : TypeCode} (h : s.ty = some c) :
    exec .ctPub s = .next { s with res := boolWord (isPublic c), stErr := 0#4 } := withType_returnWord h

theorem exec_ctRsv {c : TypeCode} (h : s.ty = some c) :
    exec .ctRsv s = .next { s with res := boolWord (isReservedBitValid c), stErr := 0#4 } := withType_returnWord h

theorem exec_ctSafe {c : TypeCode} (h : s.ty = some c) :
    exec .ctSafe s = .next { s with res := boolWord (isSafeToCopy c), stErr := 0#4 } := withType_returnWord h

/-- Settles O17: the predicate's word by the guard on `TY`, the predicate by the mask of its byte. -/
theorem predicateCommandsReadBitFive : Obligations.PredicateCommandsReadBitFive := by
  refine ⟨by decide, by decide, by decide, by decide, fun s => ⟨fun c hc => ?_, fun hn => ?_⟩⟩
  · have ifClear (b : Byte) : boolWord (!bit5 b) = if b &&& 0x20#8 = 0x00#8 then 1#32 else 0#32 := by
      rw [not_bit5_eq_decide_clear, boolWord_decide]
    have ifSet (b : Byte) : boolWord (bit5 b) = if b &&& 0x20#8 = 0x20#8 then 1#32 else 0#32 := by
      rw [bit5_eq_decide_set, boolWord_decide]
    rw [← ifClear, ← ifClear, ← ifClear, ← ifSet]
    exact ⟨exec_ctCrit hc, exec_ctPub hc, exec_ctRsv hc, exec_ctSafe hc⟩
  · exact ⟨withType_of_none hn, withType_of_none hn, withType_of_none hn, withType_of_none hn⟩

/-! CT.FLAGS. -/

/-- Bit `k` is the predicate of type byte `k`, and there is none above bit 3. -/
theorem flagsWord_getLsbD (c : TypeCode) (k : Nat) :
    (flagsWord c).getLsbD k = [isCritical c, isPublic c, isReservedBitValid c, isSafeToCopy c].getD k false := by
  simp only [flagsWord, BitVec.getLsbD_append]
  match k with
  | 0 | 1 | 2 | 3 => simp
  | k + 4 => simp

theorem flagsWord_eq_sum (c : TypeCode) :
    flagsWord c = boolWord (isCritical c) + 2#32 * boolWord (isPublic c) + 4#32 * boolWord (isReservedBitValid c) +
      8#32 * boolWord (isSafeToCopy c) := by
  unfold flagsWord
  generalize isCritical c = crit, isPublic c = pub, isReservedBitValid c = rsv, isSafeToCopy c = safe
  revert crit pub rsv safe
  decide

/-- Settles O18: the word is `flagsWord`, its bits by `flagsWord_getLsbD`, and it is the sum of what the four commands
answer by `flagsWord_eq_sum`. -/
theorem flagsPackThePredicates : Obligations.FlagsPackThePredicates := by
  refine ⟨by decide, fun s => ⟨fun c hc => ⟨flagsWord c, withType_returnWord hc, ?_, ?_, ?_, ?_, ?_, ?_⟩,
    withType_of_none⟩⟩
  · exact (flagsWord_getLsbD c 0).trans (not_bit5_eq_decide_clear c.b0)
  · exact (flagsWord_getLsbD c 1).trans (not_bit5_eq_decide_clear c.b1)
  · exact (flagsWord_getLsbD c 2).trans (not_bit5_eq_decide_clear c.b2)
  · exact (flagsWord_getLsbD c 3).trans (bit5_eq_decide_set c.b3)
  · intro k hk
    exact (flagsWord_getLsbD c k).trans (List.getD_eq_default _ _ hk)
  · intro a b d e ha hb hd he
    cases (exec_ctCrit hc).symm.trans ha
    cases (exec_ctPub hc).symm.trans hb
    cases (exec_ctRsv hc).symm.trans hd
    cases (exec_ctSafe hc).symm.trans he
    exact flagsWord_eq_sum c

/-! CT.EQ. -/

/-- Equality byte for byte (41_chunk_type.md R135). -/
theorem TypeCode.eq_iff (c d : TypeCode) : c = d ↔ c.b0 = d.b0 ∧ c.b1 = d.b1 ∧ c.b2 = d.b2 ∧ c.b3 = d.b3 := by
  cases c
  cases d
  simp only [TypeCode.mk.injEq]

/-- Without a type or without a chunk CT.EQ raises `NoValue` (41_chunk_type.md R134). -/
theorem execCtEq_of_missing (h : s.ty = none ∨ s.ck = none) : execCtEq s = .next { s with stErr := 8#4 } := by
  obtain ht | hk := h
  · exact withType_of_none ht
  · obtain ht | ⟨c, ht⟩ := s.ty.eq_none_or_eq_some
    · exact withType_of_none ht
    · exact (withType_of_some ht).trans (withChunk_of_none hk)

/-- Settles O19: both guards passed, CT.EQ tests `TypeCode.eq_iff`; otherwise `execCtEq_of_missing`. -/
theorem typeEqualityIsByteForByte : Obligations.TypeEqualityIsByteForByte := by
  refine ⟨by decide, fun s => ⟨fun c k hc hk => ?_, execCtEq_of_missing⟩⟩
  have answer : exec .ctEq s = .next { s with res := boolWord (decide (c = k.typ)), stErr := 0#4 } :=
    (withType_of_some hc).trans (withChunk_of_some hk)
  simpa only [boolWord_decide, TypeCode.eq_iff] using answer

end Sys2Proof.Machine
end

section
/-! PROOFS. The chunk parser and framer, command by command (42_chunk_framer.md R152 to R167), and that its commands and
those of the chunk-type unit leave `ACC` alone (R151). -/

namespace Sys2Proof.Machine

open Sys2Proof

variable {s : State} {c : Chunk}

/-! CH.LEN, CH.CRC, CH.SIZE, CH.TYPE and CH.DATA. -/

/-- The length of a held chunk leaves room for the 12 bytes of its frame (00_scope.md R12, 42_chunk_framer.md R164). -/
theorem Chunk.Ok.size_toNat {cap : Nat} (h : c.Ok cap) : (12#32 + c.len).toNat = 12 + c.len.toNat := by
  have short : c.len.toNat ≤ 2147483647 := h.len_le
  rw [BitVec.toNat_add]
  exact Nat.mod_eq_of_lt (show 12 + c.len.toNat < 2 ^ 32 by omega)

theorem Chunk.Ok.len_getLsbD_31 {cap : Nat} (h : c.Ok cap) : c.len.getLsbD 31 = false :=
  Nat.testBit_lt_two_pow (Nat.lt_succ_of_le h.len_le)

/-- Settles O27: the words by the guard on `CK.V`, the bounds by the chunk's invariants. -/
theorem scalarAccessors : Obligations.ScalarAccessors := by
  refine ⟨by decide, by decide, by decide, fun s => ⟨fun c hc => ?_, fun hn => ?_⟩⟩
  · refine ⟨withChunk_of_some hc, withChunk_of_some hc, 12#32 + c.len, withChunk_of_some hc, fun ok => ?_⟩
    have short : c.len.toNat ≤ 2147483647 := ok.len_le
    rw [ok.size_toNat]
    exact ⟨ok.len_getLsbD_31, ok.crc_eq, rfl, by omega, by omega⟩
  · exact ⟨withChunk_of_none hn, withChunk_of_none hn, withChunk_of_none hn⟩

/-- Settles O28: the type and the payload by the guard on `CK.V`, the payload being the data by `payload_eq`. -/
theorem typeAndDataAccessors : Obligations.TypeAndDataAccessors := by
  refine ⟨by decide, by decide, fun s => ⟨fun c hc => ⟨withChunk_of_some hc, fun hl => ?_⟩, fun hn => ?_⟩⟩
  · have answer : exec .chData s = .next { s with obuf := c.payload, stErr := 0#4 } := withChunk_of_some hc
    rwa [payload_eq hl] at answer
  · exact ⟨withChunk_of_none hn, withChunk_of_none hn⟩

/-! CH.EMIT: the record, offset by offset (30_encoding.md R76). -/

/-- The most significant byte stands first (00_scope.md R10). -/
theorem be32Bytes_getElem? (v : Word) {k : Nat} (hk : k < 4) :
    (be32Bytes v)[k]? = some (v.extractLsb' (24 - 8 * k) 8) := by
  interval_cases k <;> rfl

theorem wire_getElem?_length (hl : c.len.toNat = c.data.length) {k : Nat} (hk : k < 4) :
    c.wire[k]? = some (c.len.extractLsb' (24 - 8 * k) 8) := by
  rw [wire_eq hl, List.append_assoc, List.append_assoc, List.getElem?_append_left hk, be32Bytes_getElem? _ hk]

theorem wire_getElem?_data (hl : c.len.toNat = c.data.length) {k : Nat} (hk : k < c.len.toNat) :
    c.wire[8 + k]? = c.data[k]? := by
  rw [wire_eq hl, List.append_assoc, List.getElem?_append_right (Nat.le_add_right 8 k),
    List.getElem?_append_left (by simp; omega)]
  simp

theorem wire_getElem?_crc (hl : c.len.toNat = c.data.length) {k : Nat} (hk : k < 4) :
    c.wire[8 + c.len.toNat + k]? = some (c.crc.extractLsb' (24 - 8 * k) 8) := by
  rw [wire_eq hl, List.getElem?_append_right (by simp; omega), ← be32Bytes_getElem? _ hk]
  congr 1
  simp
  omega

/-- Settles O29: `out` is the chunk's record, read at each of its fields. -/
theorem emitWritesTheWireFormat : Obligations.EmitWritesTheWireFormat := by
  refine ⟨by decide, fun s => ⟨fun c hc hl => ⟨c.wire, withChunk_of_some hc, length_wire hl,
    fun k => wire_getElem?_length hl, ?_, ?_, ?_, ?_, fun k => wire_getElem?_data hl, fun k => wire_getElem?_crc hl⟩,
    withChunk_of_none⟩⟩
  all_goals rfl

/-! CH.NEW. -/

theorem makeChunk_len_toNat {t : TypeCode} {p : List Byte} (hp : p.length ≤ lenMax) :
    (makeChunk t p).len.toNat = p.length :=
  (BitVec.toNat_ofNat ..).trans (Nat.mod_eq_of_lt (Nat.lt_of_le_of_lt hp (by decide)))

/-- With a type held CH.NEW is its two preconditions (42_chunk_framer.md R153) and then the chunk of the type and the
input. -/
theorem execChNew_of_type {t : TypeCode} (ht : s.ty = some t) :
    execChNew s =
      if lenMax < s.ilen then .refused .payloadTooLong
      else if s.cfg.dcap < s.ilen then .refused .storeTooSmall
      else .next { s with ck := some (makeChunk t s.ibuf), stErr := 0#4 } := by
  rw [execChNew, withType_of_some ht, inputBytes_eq, succeed]

/-- Settles O22: the guard on `TYV`, then `execChNew_of_type`. -/
theorem constructFromTypeAndInput : Obligations.ConstructFromTypeAndInput := by
  refine ⟨by decide, fun s => ⟨withType_of_none, fun t ht =>
    ⟨fun long => ?_, fun legal large => ?_, fun legal fits => ?_⟩⟩⟩
  · exact (execChNew_of_type ht).trans (if_pos long)
  · exact (execChNew_of_type ht).trans ((if_neg legal.not_gt).trans (if_pos large))
  · exact ⟨makeChunk t s.ibuf, (execChNew_of_type ht).trans ((if_neg legal.not_gt).trans (if_neg fits.not_gt)),
      makeChunk_len_toNat legal, rfl, rfl, rfl⟩

/-! CH.PARSE. -/

theorem bigEndian_eq_be32_toNat (b0 b1 b2 b3 : Byte) : bigEndian b0 b1 b2 b3 = (be32 b0 b1 b2 b3).toNat :=
  (be32_toNat ..).symm

/-- Reading a big-endian field behind other bytes. -/
theorem be32At_append (u : List Byte) (b0 b1 b2 b3 : Byte) (v : List Byte) :
    be32At (u ++ b0 :: b1 :: b2 :: b3 :: v) u.length = be32 b0 b1 b2 b3 := by
  simp [be32At, memByte]

/-- Step 1 of R155: no record is shorter than 12 bytes. -/
theorem execChParse_of_short (h : s.ilen < 12) : execChParse s = .next { s with ck := none, stErr := 5#4 } := if_pos h

/-- Steps 2 to 4 of R155: what the decoded length decides, once the buffer can hold a record. -/
theorem execChParse_of_length {len : Word} (h12 : 12 ≤ s.ilen) (hlen : be32At s.ibuf offLength = len) :
    execChParse s =
      if lenMax < len.toNat then .next { s with ck := none, stErr := 4#4 }
      else if s.cfg.dcap < len.toNat then .refused .storeTooSmall
      else if s.ilen < 12 + len.toNat then .next { s with ck := none, stErr := 5#4 }
      else parseRecord len s := by
  rw [execChParse, if_neg h12.not_gt, hlen]
  rfl

/-- Steps 5 to 10 of R155, on a buffer written out as length, type, payload, CRC and trailing bytes. -/
theorem parseRecord_of_fields {l0 l1 l2 l3 t0 t1 t2 t3 f0 f1 f2 f3 : Byte} {d rest : List Byte} {len : Word}
    (hb : s.ibuf = l0 :: l1 :: l2 :: l3 :: t0 :: t1 :: t2 :: t3 :: (d ++ f0 :: f1 :: f2 :: f3 :: rest))
    (hd : d.length = len.toNat) :
    parseRecord len s =
      if TypeCode.alpha ⟨t0, t1, t2, t3⟩ = false then .next { s with ck := none, stErr := 1#4 }
      else if crc32 (t0 :: t1 :: t2 :: t3 :: d) ≠ be32 f0 f1 f2 f3 then
        .next { s with
          ck := none, stErr := 6#4, stExp := crc32 (t0 :: t1 :: t2 :: t3 :: d), stFnd := be32 f0 f1 f2 f3 }
      else .next { s with ck := some ⟨len, ⟨t0, t1, t2, t3⟩, d, be32 f0 f1 f2 f3⟩, stErr := 0#4 } := by
  have type : typeAt s.ibuf offType = ⟨t0, t1, t2, t3⟩ := by rw [hb]; rfl
  have data : memRead s.ibuf offData len.toNat = d := by
    rw [hb, ← hd]
    exact memRead_append [l0, l1, l2, l3, t0, t1, t2, t3] d _
  have crc : be32At s.ibuf (offCrc len.toNat) = be32 f0 f1 f2 f3 := by
    rw [hb, ← hd, offCrc, Nat.add_comm 8]
    exact be32At_append (l0 :: l1 :: l2 :: l3 :: t0 :: t1 :: t2 :: t3 :: d) f0 f1 f2 f3 rest
  have covered : memRead s.ibuf offType (4 + len.toNat) = t0 :: t1 :: t2 :: t3 :: d := by
    rw [hb, ← hd, Nat.add_comm 4]
    exact memRead_append [l0, l1, l2, l3] (t0 :: t1 :: t2 :: t3 :: d) _
  simp only [parseRecord, type, data, crc, covered, raise, succeed, raised_ck_invalidTypeByte,
    raised_ck_checksumMismatch]

/-- Settles O23: the length by `execChParse_of_length`, the type and the CRC by `parseRecord_of_fields`. -/
theorem parseReportsFirstFailingStep : Obligations.ParseReportsFirstFailingStep := by
  refine ⟨by decide, fun s => ⟨execChParse_of_short, fun l0 l1 l2 l3 t0 t1 t2 t3 body hb h4 => ?_⟩⟩
  have size : s.ilen = 8 + body.length := by
    simp only [Block.ilen, hb, List.length_cons]
    omega
  have parse := execChParse_of_length (s := s) (len := be32 l0 l1 l2 l3) (by omega) (by rw [hb]; rfl)
  simp only [bigEndian_eq_be32_toNat, BitVec.ofNat_toNat, BitVec.setWidth_eq, ne_eq, BitVec.toNat_inj]
  generalize be32 l0 l1 l2 l3 = len at parse
  refine ⟨fun long => parse.trans (if_pos long), fun legal => ?_⟩
  replace parse := parse.trans (if_neg legal.not_gt)
  refine ⟨fun large => parse.trans (if_pos large), fun fits => ?_⟩
  replace parse := parse.trans (if_neg fits.not_gt)
  refine ⟨fun cut => parse.trans (if_pos (by omega)), fun d rest f0 f1 f2 f3 hbody hd => ?_⟩
  subst hbody
  have whole : ¬ s.ilen < 12 + len.toNat := by
    simp only [List.length_append, List.length_cons] at size
    omega
  replace parse := (parse.trans (if_neg whole)).trans (parseRecord_of_fields hb hd)
  rw [← alpha_iff_letters, Bool.not_eq_true]
  refine ⟨fun bad => parse.trans (if_pos bad), fun good differ => ?_, fun good agree => ?_⟩
  · exact parse.trans ((if_neg (ne_false_of_eq_true good)).trans (if_pos differ))
  · exact parse.trans ((if_neg (ne_false_of_eq_true good)).trans (if_neg (not_not.2 agree)))

/-! `ACC` outside the CRC family. -/

/-- A next state that `o` answers has the `ACC` of `s`, and `o'` answers it too, with `a` in `ACC`. -/
def AccApart (s : State) (a : Word) (o o' : Host.Outcome State Fault Refusal) : Prop :=
  ∀ t, o = .next t → t.acc = s.acc ∧ o' = .next { t with acc := a }

namespace AccApart

variable {a : Word}

theorem succeed {u : State} (hu : u.acc = s.acc) : AccApart s a (succeed u) (succeed { u with acc := a }) :=
    fun t h => by
      rw [succeed_next] at h
      subst h
      exact ⟨hu, rfl⟩

theorem raise {d : Dest} {e : ErrorKind} : AccApart s a (raise d e s) (raise d e { s with acc := a }) := fun t h => by
  rw [raise_next] at h
  subst h
  exact ⟨rfl, rfl⟩

theorem refused {r : Refusal} {o : Host.Outcome State Fault Refusal} : AccApart s a (.refused r) o :=
  fun _ h => nomatch h

theorem ite {p : Prop} [Decidable p] {o₁ o₁' o₂ o₂' : Host.Outcome State Fault Refusal} (h₁ : AccApart s a o₁ o₁')
    (h₂ : AccApart s a o₂ o₂') : AccApart s a (if p then o₁ else o₂) (if p then o₁' else o₂') := by
  split
  · exact h₁
  · exact h₂

theorem withType {k k' : TypeCode → Host.Outcome State Fault Refusal} (h : ∀ c, AccApart s a (k c) (k' c)) :
    AccApart s a (withType s k) (withType { s with acc := a } k') := fun t ht => by
  obtain ⟨hn, rfl⟩ | ⟨c, hc, hk⟩ := withType_next.1 ht
  · exact ⟨rfl, withType_of_none hn⟩
  · exact ⟨(h c t hk).1, (withType_of_some (s := { s with acc := a }) hc).trans (h c t hk).2⟩

theorem withChunk {k k' : Chunk → Host.Outcome State Fault Refusal} (h : ∀ c, AccApart s a (k c) (k' c)) :
    AccApart s a (withChunk s k) (withChunk { s with acc := a } k') := fun t ht => by
  obtain ⟨hn, rfl⟩ | ⟨c, hc, hk⟩ := withChunk_next.1 ht
  · exact ⟨rfl, withChunk_of_none hn⟩
  · exact ⟨(h c t hk).1, (withChunk_of_some (s := { s with acc := a }) hc).trans (h c t hk).2⟩

theorem withTextOps {k k' : Host.Outcome State Fault Refusal} (h : AccApart s a k k') :
    AccApart s a (withTextOps s k) (withTextOps { s with acc := a } k') := ite h refused

theorem makeType {c : TypeCode} : AccApart s a (makeType c s) (makeType c { s with acc := a }) :=
  ite (succeed rfl) raise

theorem parseRecord {len : Word} : AccApart s a (parseRecord len s) (parseRecord len { s with acc := a }) :=
  ite raise (ite raise (succeed rfl))

end AccApart

/-- Outside the CRC family no guard, no test and no value written rests on `ACC` (42_chunk_framer.md R151). -/
theorem exec_accApart {i : Instr} (hb : ∀ b, i ≠ .crcByte b) (hi : i ≠ .crcInit) (hbuf : i ≠ .crcBuf)
    (hr : i ≠ .crcRead) (hs : i ≠ .crcSum) (s : State) (a : Word) :
    AccApart s a (exec i s) (exec i { s with acc := a }) := by
  cases i with
  | crcInit | crcBuf | crcRead | crcSum => contradiction
  | crcByte b => exact absurd rfl (hb b)
  | ctFromb => exact .makeType
  | ctFroms => exact .withTextOps (.ite .raise (.ite .raise .makeType))
  | ctBytes | ctCrit | ctPub | ctRsv | ctSafe | ctFlags => exact .withType fun _ => .succeed rfl
  | ctDisp => exact .withTextOps (.withType fun _ => .succeed rfl)
  | ctEq => exact .withType fun _ => .withChunk fun _ => .succeed rfl
  | chNew => exact .withType fun _ => .ite .refused (.ite .refused (.succeed rfl))
  | chParse => exact .ite .raise (.ite .raise (.ite .refused (.ite .raise .parseRecord)))
  | chLen | chType | chData | chCrc | chSize | chEmit => exact .withChunk fun _ => .succeed rfl
  | chText => exact .withTextOps (.withChunk fun _ => .ite (.succeed rfl) .raise)

/-- Settles O44: the other two families by `exec_accApart`, CRC.INIT and CRC.SUM by overwriting `ACC`. -/
theorem accIsPrivateToTheCrcUnit : Obligations.AccIsPrivateToTheCrcUnit :=
  ⟨fun _ s t a hb hi hbuf hr hs h => exec_accApart hb hi hbuf hr hs s a t h, fun _ _ => ⟨rfl, rfl⟩⟩

end Sys2Proof.Machine
end

section
/-! PROOFS. `NoValue`: a command without the type or the chunk it needs (60_exceptions.md R196, R202). -/

namespace Sys2Proof.Machine

open Sys2Proof

variable {i : Instr} {s : State}

/-- A text command that exists in the instance passes the guard on `TEXT_OPS`. -/
theorem textOps_of_wf {p : Params} (hi : i.isText = true) (hw : i.wf p = true) : p.textOps = true := by
  simpa [Instr.wf, hi] using hw

/-- The guard on `TYV` stands before everything but the guard on `TEXT_OPS`. -/
theorem exec_of_no_type (hw : i.wf s.cfg = true) (hi : i.needsType = true) (hn : s.ty = none) :
    exec i s = .next { s with stErr := 8#4 } := by
  cases i with
  | ctBytes | ctCrit | ctPub | ctRsv | ctSafe | ctFlags | ctEq | chNew => exact withType_of_none hn
  | ctDisp => exact (withTextOps_of_true (textOps_of_wf rfl hw)).trans (withType_of_none hn)
  | crcInit | crcByte | crcBuf | crcRead | crcSum | ctFromb | ctFroms | chParse | chLen | chType | chData | chCrc |
    chSize | chEmit | chText => cases hi

/-- The guard on `CK.V` stands before everything but the guard on `TEXT_OPS`, and in CT.EQ the guard on `TYV`, which
raises the same. -/
theorem exec_of_no_chunk (hw : i.wf s.cfg = true) (hi : i.needsChunk = true) (hn : s.ck = none) :
    exec i s = .next { s with stErr := 8#4 } := by
  cases i with
  | chLen | chType | chData | chCrc | chSize | chEmit => exact withChunk_of_none hn
  | chText => exact (withTextOps_of_true (textOps_of_wf rfl hw)).trans (withChunk_of_none hn)
  | ctEq => exact execCtEq_of_missing (.inr hn)
  | crcInit | crcByte | crcBuf | crcRead | crcSum | ctFromb | ctFroms | ctBytes | ctDisp | ctCrit | ctPub | ctRsv |
    ctSafe | ctFlags | chNew | chParse => cases hi

/-- Settles O37: the missing type by `exec_of_no_type`, the missing chunk by `exec_of_no_chunk`. -/
theorem noValueChangesOnlyTheCode : Obligations.NoValueChangesOnlyTheCode := by
  rintro i s hw (⟨hi, hv⟩ | ⟨hi, hv⟩)
  · exact exec_of_no_type hw hi (Option.isNone_iff_eq_none.1 (Option.isSome_eq_false_iff.1 hv))
  · exact exec_of_no_chunk hw hi (Option.isNone_iff_eq_none.1 (Option.isSome_eq_false_iff.1 hv))

end Sys2Proof.Machine
end

section
/-! PROOFS. The decoder and the encoder are inverse to each other, and agree with the table of words (30_encoding.md R70
to R86). -/

namespace Sys2Proof.Machine

open Sys2Proof

variable {p : Params} {i : Instr} {w : CmdWord} {op : Byte} {imm : Word}

/-! The two fields of a word (R70). -/

@[simp] theorem cmdOp_encode (i : Instr) : cmdOp (encode i) = i.op := BitVec.extractLsb'_append_eq_left

@[simp] theorem cmdImm_encode (i : Instr) : cmdImm (encode i) = i.imm := BitVec.extractLsb'_append_eq_right

theorem toNat_eq_fields (w : CmdWord) : w.toNat = (cmdOp w).toNat * 2 ^ 32 + (cmdImm w).toNat := by
  rw [cmdOp_toNat, cmdImm_toNat]
  omega

/-- A command whose two fields are those of the word has that word. -/
theorem encode_eq_of_fields (hop : i.op = cmdOp w) (himm : i.imm = cmdImm w) : encode i = w := by
  apply BitVec.eq_of_toNat_eq
  rw [encode_toNat, toNat_eq_fields w, hop, himm]

/-! Decoding a command's word. -/

/-- Only the text commands depend on the parameters (R72). -/
theorem wf_of_not_isText (hi : i.isText = false) : i.wf p = true := by simp [Instr.wf, hi]

theorem imm_crcByte_toNat (b : Byte) : (Instr.crcByte b).imm.toNat = b.toNat := by
  rw [Instr.imm, BitVec.toNat_append]
  simp

theorem decodeCrcByte_imm (b : Byte) : decodeCrcByte (Instr.crcByte b).imm = .instr (.crcByte b) := by
  have high : (Instr.crcByte b).imm.extractLsb' 8 24 = 0#24 := BitVec.extractLsb'_append_eq_left
  have low : (Instr.crcByte b).imm.extractLsb' 0 8 = b := BitVec.extractLsb'_append_eq_right
  rw [decodeCrcByte, low]
  exact if_pos high

theorem decodeCtFromb_imm (b0 b1 b2 b3 : Byte) :
    decodeCtFromb (Instr.ctFromb b0 b1 b2 b3).imm = .instr (.ctFromb b0 b1 b2 b3) := by
  have bytes : be32Bytes (Instr.ctFromb b0 b1 b2 b3).imm = [b0, b1, b2, b3] := be32Bytes_be32 b0 b1 b2 b3
  simp only [be32Bytes, List.cons.injEq, and_true] at bytes
  obtain ⟨h0, h1, h2, h3⟩ := bytes
  rw [decodeCtFromb, h0, h1, h2, h3]

theorem decode_encode (hi : i.wf p = true) : decode p (encode i) = .instr i := by
  rw [decode, cmdOp_encode, cmdImm_encode]
  cases i with
  | crcByte b => exact decodeCrcByte_imm b
  | ctFromb b0 b1 b2 b3 => exact decodeCtFromb_imm b0 b1 b2 b3
  | ctFroms | ctDisp | chText => exact decodeText_of_present (textOps_of_wf rfl hi)
  | crcInit | crcBuf | crcRead | crcSum | ctBytes | ctCrit | ctPub | ctRsv | ctSafe | ctFlags | ctEq | chNew | chParse |
    chLen | chType | chData | chCrc | chSize | chEmit => rfl

/-- Settles O52: the fields of the word by `cmdOp_encode` and `cmdImm_encode`, then the row of the command. -/
theorem decodeOfEncode : Obligations.DecodeOfEncode := fun _ _ => decode_encode

/-! The command that a word decodes to. -/

/-- A command that the verdict names has these fields and exists with these parameters. -/
def HasFields (p : Params) (op : Byte) (imm : Word) (d : Decoded) : Prop :=
  ∀ i, d = .instr i → i.op = op ∧ i.imm = imm ∧ i.wf p = true

namespace HasFields

theorem plain (hop : op.toNat = i.op.toNat) (himm : i.imm = 0#32) (hi : i.wf p = true) :
    HasFields p op imm (decodePlain i imm) := fun j h => by
  unfold decodePlain at h
  split at h
  next zero =>
    obtain rfl := Decoded.instr.inj h
    exact ⟨(BitVec.eq_of_toNat_eq hop).symm, himm.trans zero.symm, hi⟩
  next => cases h

theorem text (hop : op.toNat = i.op.toNat) (himm : i.imm = 0#32) : HasFields p op imm (decodeText p i imm) := by
  cases present : p.textOps with
  | false =>
    rw [decodeText_of_absent present]
    exact nofun
  | true =>
    rw [decodeText_of_present present]
    exact plain hop himm (by simp [Instr.wf, present])

theorem crcByte (hop : op.toNat = 0x01) : HasFields p op imm (decodeCrcByte imm) := fun j h => by
  unfold decodeCrcByte at h
  split at h
  next high =>
    obtain rfl := Decoded.instr.inj h
    refine ⟨(BitVec.eq_of_toNat_eq hop).symm, ?_, wf_of_not_isText rfl⟩
    have highNat := congrArg BitVec.toNat high
    apply BitVec.eq_of_toNat_eq
    simp only [imm_crcByte_toNat, BitVec.extractLsb'_toNat, Nat.shiftRight_eq_div_pow, BitVec.ofNat_eq_ofNat,
      BitVec.toNat_ofNat] at highNat ⊢
    omega
  next => cases h

theorem ctFromb (hop : op.toNat = 0x10) : HasFields p op imm (decodeCtFromb imm) := fun j h => by
  obtain rfl := Decoded.instr.inj h
  exact ⟨(BitVec.eq_of_toNat_eq hop).symm, be32_be32Bytes imm, wf_of_not_isText rfl⟩

end HasFields

/-- Row by row of R72. -/
theorem decodeFields_hasFields (p : Params) (op : Byte) (imm : Word) : HasFields p op imm (decodeFields p op imm) := by
  unfold decodeFields
  split
  case h_2 hop => exact .crcByte hop
  case h_6 hop => exact .ctFromb hop
  case h_7 hop | h_9 hop | h_24 hop => exact .text hop rfl
  case h_25 => exact nofun
  all_goals exact .plain ‹_› rfl (wf_of_not_isText rfl)

theorem encode_of_decode (h : decode p w = .instr i) : encode i = w ∧ i.wf p = true := by
  obtain ⟨hop, himm, hi⟩ := decodeFields_hasFields p (cmdOp w) (cmdImm w) i h
  exact ⟨encode_eq_of_fields hop himm, hi⟩

/-- Settles O53: the fields of the command by `decodeFields_hasFields`. -/
theorem encodeOfDecode : Obligations.EncodeOfDecode := fun _ _ _ => encode_of_decode

/-! The table (R84). -/

theorem matchesRow : ∀ i : Instr, Laws.MatchesRow.Statement i
  | .crcInit => Laws.MatchesRow.crcInit
  | .crcByte b => Laws.MatchesRow.crcByte b
  | .crcBuf => Laws.MatchesRow.crcBuf
  | .crcRead => Laws.MatchesRow.crcRead
  | .crcSum => Laws.MatchesRow.crcSum
  | .ctFromb b0 b1 b2 b3 => Laws.MatchesRow.ctFromb b0 b1 b2 b3
  | .ctFroms => Laws.MatchesRow.ctFroms
  | .ctBytes => Laws.MatchesRow.ctBytes
  | .ctDisp => Laws.MatchesRow.ctDisp
  | .ctCrit => Laws.MatchesRow.ctCrit
  | .ctPub => Laws.MatchesRow.ctPub
  | .ctRsv => Laws.MatchesRow.ctRsv
  | .ctSafe => Laws.MatchesRow.ctSafe
  | .ctFlags => Laws.MatchesRow.ctFlags
  | .ctEq => Laws.MatchesRow.ctEq
  | .chNew => Laws.MatchesRow.chNew
  | .chParse => Laws.MatchesRow.chParse
  | .chLen => Laws.MatchesRow.chLen
  | .chType => Laws.MatchesRow.chType
  | .chData => Laws.MatchesRow.chData
  | .chCrc => Laws.MatchesRow.chCrc
  | .chSize => Laws.MatchesRow.chSize
  | .chEmit => Laws.MatchesRow.chEmit
  | .chText => Laws.MatchesRow.chText

/-- A row either covers one word, that of a command without an operand, or is CRC.BYTE's or CT.FROMB's. -/
theorem opcodeRows_cases : ∀ r ∈ opcodeRows,
    (r.mask = BitVec.allOnes 40 ∧ ∃ i ∈ plainCommands, encode i = r.pattern ∧ i.mnemonic = r.mnemonic) ∨
    r = ⟨"CRC.BYTE", 0x0100000000#40, 0xFFFFFFFF00#40⟩ ∨ r = ⟨"CT.FROMB", 0x1000000000#40, 0xFF00000000#40⟩ := by
  decide

/-- The bits that a mask has all of are the pattern's in a covered word. -/
theorem OpcodeRow.extractLsb'_of_covers {r : OpcodeRow} {start len : Nat} (h : r.covers w = true)
    (hm : r.mask.extractLsb' start len = BitVec.allOnes len) :
    w.extractLsb' start len = r.pattern.extractLsb' start len := by
  rw [← beq_iff_eq.1 h, BitVec.extractLsb'_and, hm, BitVec.and_allOnes]

theorem decode_of_crcByte_row
    (h : OpcodeRow.covers ⟨"CRC.BYTE", 0x0100000000#40, 0xFFFFFFFF00#40⟩ w = true) :
    ∃ b, decode p w = .instr (.crcByte b) := by
  have hop : cmdOp w = 0x01#8 := (OpcodeRow.extractLsb'_of_covers h (by decide)).trans (by decide)
  have high : w.extractLsb' 8 24 = 0#24 := (OpcodeRow.extractLsb'_of_covers h (by decide)).trans (by decide)
  refine ⟨(cmdImm w).extractLsb' 0 8, (decodeFields_of_crcByteOp (congrArg BitVec.toNat hop)).trans (if_pos ?_)⟩
  rw [cmdImm, BitVec.extractLsb'_extractLsb'_of_le (by decide)]
  exact high

theorem decode_of_ctFromb_row
    (h : OpcodeRow.covers ⟨"CT.FROMB", 0x1000000000#40, 0xFF00000000#40⟩ w = true) :
    ∃ b0 b1 b2 b3, decode p w = .instr (.ctFromb b0 b1 b2 b3) := by
  have hop : cmdOp w = 0x10#8 := (OpcodeRow.extractLsb'_of_covers h (by decide)).trans (by decide)
  rw [decode, hop]
  exact ⟨_, _, _, _, rfl⟩

/-- With `TEXT_OPS = true` a word that a row covers decodes to a command of the row. -/
theorem decode_of_covers (ht : p.textOps = true) {r : OpcodeRow} (hr : r ∈ opcodeRows) (h : r.covers w = true) :
    ∃ i, decode p w = .instr i ∧ i.mnemonic = r.mnemonic := by
  obtain ⟨hm, i, -, word, name⟩ | rfl | rfl := opcodeRows_cases r hr
  · have hw : w = r.pattern := by rw [← beq_iff_eq.1 h, hm, BitVec.and_allOnes]
    rw [hw, ← word]
    exact ⟨i, decode_encode (by simp [Instr.wf, ht]), name⟩
  · obtain ⟨b, hb⟩ := decode_of_crcByte_row (p := p) h
    exact ⟨_, hb, rfl⟩
  · obtain ⟨b0, b1, b2, b3, hb⟩ := decode_of_ctFromb_row (p := p) h
    exact ⟨_, hb, rfl⟩

theorem opcodeRows_mnemonics_distinct : opcodeRows.Pairwise fun r r' => r.mnemonic ≠ r'.mnemonic := by decide

/-- Settles O55: a decoded word is its command's, whose row covers it; a covered word decodes to a command of the row,
and to no other command. -/
theorem decoderAgreesWithTheOpcodeTable : Obligations.DecoderAgreesWithTheOpcodeTable := by
  refine ⟨fun p w i h => ?_, fun p w ht r hr h => decode_of_covers ht hr h, ?_⟩
  · exact (encode_of_decode h).1 ▸ matchesRow i
  · refine opcodeRows_mnemonics_distinct.imp_of_mem fun hr hr' distinct w ⟨h, h'⟩ => ?_
    obtain ⟨i, hi, name⟩ := decode_of_covers (p := .standard) rfl hr h
    obtain ⟨i', hi', name'⟩ := decode_of_covers (p := .standard) rfl hr' h'
    obtain rfl := Decoded.instr.inj (hi.symm.trans hi')
    exact distinct (name.symm.trans name')

/-- Settles O56: each word by computation. -/
theorem writtenWordsDecode : Obligations.WrittenWordsDecode := by
  unfold Obligations.WrittenWordsDecode
  decide

end Sys2Proof.Machine
end

section
/-! PROOFS. The CRC function: the table form, and that no byte and no bit is lost (40_crc_generator.md R101 to R103,
R106, R112); the CRC commands one after another (R107, R109). -/

namespace Sys2Proof.Machine

open Sys2Proof

/-- Settles O2: the word by its two fields, the next state by `exec_crcByte`. -/
theorem crcByteFeedsOneByte : Obligations.CrcByteFeedsOneByte := fun b s =>
  ⟨by simp [encode_toNat, imm_crcByte_toNat, Instr.op], exec_crcByte b s⟩

/-! One round loses nothing: bit 31 of what it answers is bit 0 of what it was given, as the polynomial has bit 31. -/

theorem crcRound_eq (x : Word) : crcRound x = (x >>> 1) ^^^ if x.getLsbD 0 then crcPoly else 0#32 := by
  unfold crcRound
  split <;> simp

theorem crcRound_getLsbD_31 (x : Word) : (crcRound x).getLsbD 31 = x.getLsbD 0 := by
  have poly : crcPoly.getLsbD 31 = true := by decide
  rw [crcRound_eq]
  cases x.getLsbD 0 <;> simp [poly]

theorem crcRound_injective : Function.Injective crcRound := fun x y h => by
  have bit0 : x.getLsbD 0 = y.getLsbD 0 := by rw [← crcRound_getLsbD_31, h, crcRound_getLsbD_31]
  have shifted : x >>> 1 = y >>> 1 := by
    rw [crcRound_eq, crcRound_eq, bit0] at h
    exact (BitVec.xor_left_inj _).1 h
  apply BitVec.eq_of_getLsbD_eq
  intro k _
  cases k with
  | zero => exact bit0
  | succ k => simpa [Nat.add_comm] using congrArg (BitVec.getLsbD · k) shifted

theorem crcRounds_injective (n : Nat) : Function.Injective (crcRounds n) := by
  induction n with
  | zero => exact Function.injective_id
  | succ n ih => exact ih.comp crcRound_injective

theorem crcStep_injective (b : Byte) : Function.Injective (crcStep · b) := fun _ _ h =>
  (BitVec.xor_left_inj _).1 (crcRounds_injective 8 h)

/-- Settles O13: an injective map of a finite type to itself is bijective. -/
theorem crcStepIsBijective : Obligations.CrcStepIsBijective := fun b =>
  Finite.injective_iff_bijective.1 (crcStep_injective b)

/-! What differs stays different over the bytes that follow (R112). -/

/-- From one accumulator, two bytes lead to two. -/
theorem crcStep_byte_injective (a : Word) : Function.Injective (crcStep a) := fun b c h => by
  have wide : b.setWidth 32 = c.setWidth 32 := (BitVec.xor_right_inj _).1 (crcRounds_injective 8 h)
  simpa using congrArg (BitVec.setWidth 8) wide

theorem crcAcc_injective (v : List Byte) : Function.Injective (crcAcc · v) := by
  induction v with
  | nil => exact Function.injective_id
  | cons b v ih => exact ih.comp (crcStep_injective b)

theorem crc32_ne_of_byte_ne {b c : Byte} (h : b ≠ c) (u v : List Byte) : crc32 (u ++ b :: v) ≠ crc32 (u ++ c :: v) := by
  intro same
  rw [crc32, crc32, BitVec.xor_left_inj, crcAcc_append, crcAcc_append] at same
  exact h (crcStep_byte_injective _ (crcAcc_injective v same))

theorem xor_bit_ne (b : Byte) {j : Nat} (hj : j < 8) : b ^^^ (1#8 <<< j) ≠ b := fun h => by
  have bit := congrArg (BitVec.getLsbD · j) h
  simp [hj] at bit

/-- Settles O12: the inverted bit makes another byte, which `crc32_ne_of_byte_ne` tells apart. -/
theorem crcTellsOneFlippedBit : Obligations.CrcTellsOneFlippedBit := fun u v b _ hj =>
  crc32_ne_of_byte_ne (xor_bit_ne b hj).symm u v

/-! The table form (R102): the rounds are linear, and on a word whose low bits are zero they only shift. -/

theorem crcRound_xor (x y : Word) : crcRound (x ^^^ y) = crcRound x ^^^ crcRound y := by
  have poly (a b : Bool) : (if (a ^^ b) = true then crcPoly else 0#32) =
      (if a = true then crcPoly else 0#32) ^^^ if b = true then crcPoly else 0#32 := by
    cases a <;> cases b <;> simp
  rw [crcRound_eq, crcRound_eq, crcRound_eq, BitVec.getLsbD_xor, poly, BitVec.ushiftRight_xor_distrib]
  ac_rfl

theorem crcRounds_xor (n : Nat) (x y : Word) : crcRounds n (x ^^^ y) = crcRounds n x ^^^ crcRounds n y := by
  induction n generalizing x y with
  | zero => rfl
  | succ n ih => rw [crcRounds, crcRound_xor, ih, crcRounds, crcRounds]

theorem crcRounds_of_low_zero {n : Nat} {x : Word} (h : ∀ k < n, x.getLsbD k = false) : crcRounds n x = x >>> n := by
  induction n generalizing x with
  | zero => simp [crcRounds]
  | succ n ih =>
    have shift : crcRound x = x >>> 1 := by
      rw [crcRound, h 0 n.succ_pos]
      rfl
    rw [crcRounds, shift, ih fun k hk => by simpa [Nat.add_comm] using h (k + 1) (Nat.succ_lt_succ hk),
      ← BitVec.shiftRight_add, Nat.add_comm]

theorem byte_ushiftRight_eight (b : Byte) : (b.setWidth 32) >>> 8 = 0#32 := by
  apply BitVec.eq_of_toNat_eq
  have := b.isLt
  simp only [BitVec.toNat_ushiftRight, BitVec.toNat_setWidth, Nat.shiftRight_eq_div_pow, BitVec.toNat_ofNat]
  omega

/-- Eight rounds take the low byte through the CRC and move the rest down. -/
theorem crcRounds_eight (x : Word) : crcRounds 8 x = crcStep 0#32 (x.extractLsb' 0 8) ^^^ (x >>> 8) := by
  generalize hb : x.extractLsb' 0 8 = b
  have low : ∀ k < 8, (b.setWidth 32 ^^^ x).getLsbD k = false := fun k hk => by
    have : k < 32 := by omega
    simp [← hb, hk, this]
  calc crcRounds 8 x = crcRounds 8 (b.setWidth 32 ^^^ (b.setWidth 32 ^^^ x)) := by simp
    _ = crcRounds 8 (b.setWidth 32) ^^^ ((b.setWidth 32 ^^^ x) >>> 8) := by
      rw [crcRounds_xor, crcRounds_of_low_zero low]
    _ = crcStep 0#32 b ^^^ (x >>> 8) := by
      rw [BitVec.ushiftRight_xor_distrib, byte_ushiftRight_eight, BitVec.zero_xor, crcStep, BitVec.zero_xor]

/-- `TAB[n]` is what the step makes of byte `n` from 0 (R102): the 256 printed entries by computation. -/
theorem crcTable_eq : crcTable = (List.range 256).map fun n => crcStep 0#32 (BitVec.ofNat 8 n) := by decide +kernel

theorem crcTable_getElem? {n : Nat} (h : n < 256) : crcTable[n]? = some (crcStep 0#32 (BitVec.ofNat 8 n)) := by
  simp [crcTable_eq, h]

theorem crcStep_eq_crcStepByTable (a : Word) (b : Byte) : crcStep a b = crcStepByTable a b := by
  have entry (c : Byte) : crcTable.getD c.toNat 0#32 = crcStep 0#32 c := by
    simp [List.getD_eq_getElem?_getD, crcTable_getElem? c.isLt]
  rw [crcStep, crcRounds_eight, crcStepByTable, entry, BitVec.ushiftRight_xor_distrib, byte_ushiftRight_eight,
    BitVec.xor_zero]

/-- Settles O3: the step by `crcRounds_eight`, the table by `crcTable_eq`. -/
theorem bitSerialStepIsTableStep : Obligations.BitSerialStepIsTableStep :=
  ⟨crcStep_eq_crcStepByTable, by simp [crcTable_eq], fun _ => crcTable_getElem?⟩

/-! CRC commands one after another. -/

/-- CRC.BYTE of each byte in order runs `crc_acc` over the bytes; `ST.ERR` is left only where there is no byte. -/
theorem execAll_crcByte (bs : List Byte) (s : State) :
    ∃ e, execAll (bs.map .crcByte) s = .next { s with acc := crcAcc s.acc bs, stErr := e } := by
  induction bs generalizing s with
  | nil => exact ⟨s.stErr, rfl⟩
  | cons b bs ih => exact ih { s with acc := crcStep s.acc b, stErr := 0#4 }

/-- Settles O5: the bytes by `execAll_crcByte`, the concatenation by `crcAcc_append`. -/
theorem crcBufIsOneByteAfterAnother : Obligations.CrcBufIsOneByteAfterAnother := by
  refine ⟨fun s => ?_, fun s t u v h => ?_⟩
  · obtain ⟨e, run⟩ := execAll_crcByte s.ibuf s
    exact ⟨_, run, exec_crcBuf s⟩
  · cases (exec_crcBuf _).symm.trans h
    exact ⟨_, exec_crcBuf _, (crcAcc_append s.acc u v).symm⟩

/-- Settles O8: each of the three by its next state. -/
theorem crcSumIsInitBufRead : Obligations.CrcSumIsInitBufRead := fun s => by
  simp [execAll, exec_crcInit, exec_crcBuf, exec_crcRead, exec_crcSum, crc32]

end Sys2Proof.Machine
end

section
/-! PROOFS. The frame of every command, register by register (10_state.md R20), byte by byte (20_memory.md R50) and on
an error (60_exceptions.md R197). -/

namespace Sys2Proof.Machine

open Sys2Proof

variable {i : Instr} {e : ErrorKind} {s t : State}

/-- Only `InvalidUtf8` and `NoValue` keep the valid bit of the register that a command constructs (60_exceptions.md R197
item 2). -/
theorem ErrorKind.clears_of_ne (h7 : e ≠ .invalidUtf8) (h8 : e ≠ .noValue) : e.clears = true := by
  cases e with
  | invalidUtf8 => exact absurd rfl h7
  | noValue => exact absurd rfl h8
  | _ => rfl

theorem ErrorKind.code_checksumMismatch (x f : Word) : (ErrorKind.checksumMismatch x f).code = 6#4 := rfl

/-- Settles O38: the error's kind and its limits by `exec_next_cases`, its effects by `raised`. -/
theorem errorChangesNothingElse : Obligations.ErrorChangesNothingElse := by
  intro i s t h failed
  obtain ⟨ok, -⟩ | ⟨e, rfl, kinds, mismatch⟩ := exec_next_cases h
  · exact absurd ok failed
  have clears (d : Dest) (hd : d ≠ .nothing) : (i.dest = d ∧ e.clears = true) = (i.dest = d) := by
    refine propext (and_iff_left_of_imp fun hi => ?_)
    obtain ⟨h7, h8⟩ := kinds (hi ▸ hd)
    exact ErrorKind.clears_of_ne h7 h8
  obtain ⟨x, f, rfl, differ, parse⟩ | other := mismatch
  · refine ⟨?_, fun _ => ⟨parse, differ⟩⟩
    simp only [raised, clears .ty nofun, clears .ck nofun, ErrorKind.code_checksumMismatch, if_true]
  · have code : e.code ≠ 6#4 := ErrorKind.code_ne_six other
    obtain ⟨keepsExp, keepsFnd⟩ := raised_keeps_mismatch_registers other i.dest s
    refine ⟨?_, fun h6 => absurd h6 code⟩
    rw [raised_stErr, if_neg code, if_neg code, ← keepsExp, ← keepsFnd]
    simp only [raised, clears .ty nofun, clears .ck nofun]

/-- A register that no row gives to the command is outside what its error can change. -/
theorem raised_sameReg (mismatch : (∃ x f, e = .checksumMismatch x f ∧ x ≠ f ∧ i = .chParse) ∨
    ∀ x f, e ≠ .checksumMismatch x f) {r : Reg} (hr : i.writes r = false) :
    (raised i.dest e s).SameReg s.toBlock r := by
  have destTy : i.writes .ty = false → i.dest ≠ .ty := by cases i <;> simp [Instr.writes, Instr.dest]
  have destCk : i.writes .ck = false → i.dest ≠ .ck := by cases i <;> simp [Instr.writes, Instr.dest]
  have other : i ≠ .chParse → ∀ x f, e ≠ .checksumMismatch x f := fun hi => by
    obtain ⟨-, -, -, -, hp⟩ | h := mismatch
    · exact absurd hp hi
    · exact h
  have notParse (r : Reg) : r = .stExp ∨ r = .stFnd → i.writes r = false → i ≠ .chParse := by
    rintro (rfl | rfl) h rfl <;> cases h
  cases r with
  | acc | res | ibuf | obuf => rfl
  | stErr => cases hr
  | ty => exact if_neg fun h => destTy hr h.1
  | ck => exact if_neg fun h => destCk hr h.1
  | stExp => exact (raised_keeps_mismatch_registers (other (notParse _ (.inl rfl) hr)) _ _).1
  | stFnd => exact (raised_keeps_mismatch_registers (other (notParse _ (.inr rfl) hr)) _ _).2

/-- What a command that answers leaves as it was. -/
theorem exec_frame (h : exec i s = .next t) :
    (∀ r, i.writes r = false → t.SameReg s.toBlock r) ∧ t.cfg = s.cfg ∧ t.moves = s.moves ∧ t.seen = s.seen := by
  obtain ⟨-, cfg, moves, seen, same⟩ | ⟨e, rfl, -, mismatch⟩ := exec_next_cases h
  · exact ⟨same, cfg, moves, seen⟩
  · exact ⟨fun r hr => raised_sameReg mismatch hr, rfl, rfl, rfl⟩

/-- Settles O41: `exec_frame`. -/
theorem commandsWriteOnlyTheirRegisters : Obligations.CommandsWriteOnlyTheirRegisters := fun _ _ _ => exec_frame

/-! The byte spaces. -/

theorem exec_ibuf (h : exec i s = .next t) : t.ibuf = s.ibuf := (exec_frame h).1 .ibuf rfl

theorem exec_obuf (h : exec i s = .next t) (hi : i.writes .obuf = false) : t.obuf = s.obuf := (exec_frame h).1 .obuf hi

theorem exec_ck (h : exec i s = .next t) (hi : i.writes .ck = false) : t.ck = s.ck := (exec_frame h).1 .ck hi

theorem exec_acc (h : exec i s = .next t) (hi : i.writes .acc = false) : t.acc = s.acc := (exec_frame h).1 .acc hi

theorem writes_ck (hn : i ≠ .chNew) (hp : i ≠ .chParse) : i.writes .ck = false := by
  cases i with
  | chNew => exact absurd rfl hn
  | chParse => exact absurd rfl hp
  | _ => rfl

theorem writes_obuf (hb : i ≠ .ctBytes) (hd : i ≠ .ctDisp) (hdata : i ≠ .chData) (he : i ≠ .chEmit) (ht : i ≠ .chText) :
    i.writes .obuf = false := by
  cases i with
  | ctBytes => exact absurd rfl hb
  | ctDisp => exact absurd rfl hd
  | chData => exact absurd rfl hdata
  | chEmit => exact absurd rfl he
  | chText => exact absurd rfl ht
  | _ => rfl

/-- Settles O42: each space is a register, or the data of one, that `exec_frame` keeps. -/
theorem commandsStoreOnlyInTheirBuffer : Obligations.CommandsStoreOnlyInTheirBuffer := by
  refine fun i s t h => ⟨?_, fun hn hp a => ?_, fun hb hd hdata he ht => ?_⟩
  · simp [Block.ilen, Block.byteAt, Block.space, exec_ibuf h]
  · simp [Block.byteAt, Block.space, exec_ck h (writes_ck hn hp)]
  · simp [Block.olen, Block.byteAt, Block.space, exec_obuf h (writes_obuf hb hd hdata he ht)]

end Sys2Proof.Machine
end

section
/-! PROOFS. The predicates of a chunk type under inversion of bit 5 (41_chunk_type.md R136), and the type read back from
a chunk (R134). -/

namespace Sys2Proof.Machine

open Sys2Proof

variable {s : State}

/-- Upper-case and lower-case letters differ in bit 5 alone (30_encoding.md R82). -/
theorem isAlpha_xor_0x20 (b : Byte) : isAlpha (b ^^^ 0x20#8) = isAlpha b := by
  have all : ∀ b : Byte, isAlpha (b ^^^ 0x20#8) = isAlpha b := by decide +kernel
  exact all b

theorem bit5_xor_0x20 (b : Byte) : bit5 (b ^^^ 0x20#8) = !bit5 b := by simp [bit5]

/-- Settles O20: letters stay letters by `isAlpha_xor_0x20`, and each predicate reads bit 5 of its own byte alone. -/
theorem predicateSymmetry : Obligations.PredicateSymmetry := by
  refine fun t ht => ⟨?_, ?_, ?_, ?_⟩
  all_goals
    rintro _ rfl
    simpa [TypeCode.alpha, isAlpha_xor_0x20, isCritical, isPublic, isReservedBitValid, isSafeToCopy, bit5_xor_0x20]
      using ht

theorem exec_ctEq {c : TypeCode} {k : Chunk} (hc : s.ty = some c) (hk : s.ck = some k) :
    exec .ctEq s = .next { s with res := boolWord (decide (c = k.typ)), stErr := 0#4 } :=
  (withType_of_some hc).trans (withChunk_of_some hk)

/-- After CH.TYPE or CH.NEW without an error a type and a chunk of that type are held. -/
theorem type_of_chunk_held {i : Instr} {t : State} (hi : i = .chType ∨ i = .chNew) (h : exec i s = .next t)
    (ok : t.stErr = 0#4) : ∃ c, t.ty = some c.typ ∧ t.ck = some c := by
  obtain rfl | rfl := hi
  · obtain ⟨-, rfl⟩ | ⟨c, hc, h⟩ := withChunk_next.1 h
    · cases ok
    · cases succeed_next.1 h
      exact ⟨c, rfl, hc⟩
  · obtain ⟨-, rfl⟩ | ⟨c, hc, h⟩ := withType_next.1 h
    · cases ok
    · split at h
      next => cases h
      split at h
      next => cases h
      cases succeed_next.1 h
      exact ⟨makeChunk c (inputBytes s), hc, rfl⟩

/-- Settles O36: CT.EQ compares two equal types. -/
theorem typeReadBackIsEqual : Obligations.TypeReadBackIsEqual := by
  intro s i t hi h ok
  obtain ⟨c, hc, hk⟩ := type_of_chunk_held hi h ok
  exact ⟨_, exec_ctEq hc hk, by simp [boolWord], rfl⟩

end Sys2Proof.Machine
end

section
/-! PROOFS. The host's moves, one step and a run (20_memory.md R58 to R63, 70_reset_and_hazards.md R220 to R232). -/

namespace Sys2Proof.Machine

open Sys2Proof

variable {s t : State} {rest : List HostMove}

/-! One move. -/

theorem hostIssue_of_decode {w : CmdWord} {i : Instr} (h : decode s.cfg w = .instr i) : hostIssue w s = exec i s := by
  rw [hostIssue, h]

theorem hostIssue_of_rejected {w : CmdWord} {r : Reject} (h : decode s.cfg w = .rejected r) :
    hostIssue w s = .refused (.reservedWord r) := by
  rw [hostIssue, h]

/-- The issue of an existing command's word runs the command. -/
theorem step_command {i : Instr} (hi : i.wf s.cfg = true) (h : s.moves = .issue (encode i) :: rest)
    (ht : exec i { s with moves := rest } = .next t) : step s = .next t :=
  (step_cons h).trans ((hostIssue_of_decode (s := { s with moves := rest }) (decode_encode hi)).trans ht)

theorem step_write {bytes : List Byte} (h : s.moves = .write bytes :: rest) (fits : bytes.length ≤ s.cfg.icap) :
    step s = .next { s with ibuf := bytes, moves := rest } :=
  (step_cons h).trans (hostWrite_next.2 ⟨fits, rfl⟩)

theorem step_loop (h : s.moves = .loop :: rest) (fits : s.olen ≤ s.cfg.icap) :
    step s = .next { s with ibuf := s.obuf, moves := rest, seen := s.seen ++ [.output s.obuf] } :=
  (step_cons h).trans (hostLoop_next.2 ⟨fits, rfl⟩)

theorem step_read (h : s.moves = .read :: rest) :
    step s = .next { s with moves := rest, seen := s.seen ++ [.all s.view] } := step_cons h

theorem step_reset (h : s.moves = .reset :: rest) :
    step s = .next { s with toBlock := Block.reset, moves := rest } := step_cons h

/-- Settles O45: the verdict of the decoder by `hostIssue`. -/
theorem stepRunsTheIssuedCommand : Obligations.StepRunsTheIssuedCommand := fun _ _ _ h =>
  ⟨fun _ hi => (step_cons h).trans (hostIssue_of_decode hi),
    fun _ hr => (step_cons h).trans (hostIssue_of_rejected hr)⟩

/-- Settles O46: `step_write`, `step_read` and `step_loop`. -/
theorem hostWritesReadsAndCopies : Obligations.HostWritesReadsAndCopies := fun _ _ =>
  ⟨fun _ => step_write, step_read, step_loop⟩

/-- Settles O48: `step_reset`. -/
theorem resetGivesTheResetValues : Obligations.ResetGivesTheResetValues := fun _ _ h =>
  ⟨_, step_reset h, rfl, rfl, rfl, rfl⟩

/-! All that a step can do. -/

/-- The ways in which a step answers a state. -/
inductive StepCase (s t : State) : Prop
  | idle (h : s.moves = []) (ht : t = s)
  | write (bytes : List Byte) (rest : List HostMove) (h : s.moves = .write bytes :: rest)
      (fits : bytes.length ≤ s.cfg.icap) (ht : t = { s with ibuf := bytes, moves := rest })
  | loop (rest : List HostMove) (h : s.moves = .loop :: rest) (fits : s.olen ≤ s.cfg.icap)
      (ht : t = { s with ibuf := s.obuf, moves := rest, seen := s.seen ++ [.output s.obuf] })
  | read (rest : List HostMove) (h : s.moves = .read :: rest)
      (ht : t = { s with moves := rest, seen := s.seen ++ [.all s.view] })
  | reset (rest : List HostMove) (h : s.moves = .reset :: rest)
      (ht : t = { s with toBlock := Block.reset, moves := rest })
  | command (w : CmdWord) (rest : List HostMove) (i : Instr) (h : s.moves = .issue w :: rest)
      (hi : decode s.cfg w = .instr i) (ht : exec i { s with moves := rest } = .next t)

theorem step_next_cases (h : step s = .next t) : StepCase s t := by
  cases hm : s.moves with
  | nil => exact .idle hm (Host.Outcome.next.inj ((step_nil hm).symm.trans h)).symm
  | cons m rest =>
    rw [step_cons hm] at h
    cases m with
    | write bytes =>
      obtain ⟨fits, ht⟩ := hostWrite_next.1 h
      exact .write bytes rest hm fits ht
    | loop =>
      obtain ⟨fits, ht⟩ := hostLoop_next.1 h
      exact .loop rest hm fits ht
    | read => exact .read rest hm (Host.Outcome.next.inj h).symm
    | reset => exact .reset rest hm (Host.Outcome.next.inj h).symm
    | issue w =>
      cases hd : decode s.cfg w with
      | rejected r => cases (hostIssue_of_rejected (s := { s with moves := rest }) hd).symm.trans h
      | instr i =>
        exact .command w rest i hm hd ((hostIssue_of_decode (s := { s with moves := rest }) hd).symm.trans h)

/-- A step takes one move. -/
theorem step_moves (h : step s = .next t) : t.moves = s.moves.tail := by
  cases step_next_cases h with
  | idle hm ht => simp [ht, hm]
  | write bytes rest hm _ ht => simp [ht, hm]
  | loop rest hm _ ht => simp [ht, hm]
  | read rest hm ht => simp [ht, hm]
  | reset rest hm ht => simp [ht, hm]
  | command w rest i hm _ ht => rw [(exec_frame ht).2.2.1, hm, List.tail_cons]

/-- A step appends to what the host has read what it reads by its move. -/
theorem step_seen (h : step s = .next t) : t.seen = s.seen ++ s.readsNext := by
  cases step_next_cases h with
  | idle hm ht => simp [State.readsNext, ht, hm]
  | write bytes rest hm _ ht => simp [State.readsNext, ht, hm]
  | loop rest hm _ ht => simp [State.readsNext, ht, hm]
  | read rest hm ht => simp [State.readsNext, ht, hm]
  | reset rest hm ht => simp [State.readsNext, ht, hm]
  | command w rest i hm _ ht => rw [(exec_frame ht).2.2.2, State.readsNext, hm, List.append_nil]

/-- By a read and by a copy the host reads once, by any other move not at all. -/
theorem length_readsNext (s : State) :
    s.readsNext.length = (s.moves.take 1).countP fun m => m = .read ∨ m = .loop := by
  unfold State.readsNext
  cases hm : s.moves with
  | nil => rfl
  | cons m rest => cases m <;> simp

/-! A run. -/

theorem runsTo_succ_iff {n : Nat} : s.RunsTo (n + 1) t ↔ ∃ u, step s = .next u ∧ u.RunsTo n t := by
  cases h : step s with
  | next u => simp [RunsTo_succ h]
  | fault f => cases f
  | refused r =>
    have run : Host.Core.run core (n + 1) s = .refused r := by simp [Host.Core.run, core, h]
    simp [State.RunsTo, run]

theorem runsTo_moves {n : Nat} (h : s.RunsTo n t) : t.moves = s.moves.drop n := by
  induction n generalizing s with
  | zero => rw [RunsTo_zero.1 h, List.drop_zero]
  | succ n ih =>
    obtain ⟨u, hu, hn⟩ := runsTo_succ_iff.1 h
    rw [ih hn, step_moves hu, List.drop_tail]

theorem runsTo_seen {n : Nat} (h : s.RunsTo n t) : ∃ reads, t.seen = s.seen ++ reads ∧
    reads.length = (s.moves.take n).countP fun m => m = .read ∨ m = .loop := by
  induction n generalizing s with
  | zero => exact ⟨[], by simp [RunsTo_zero.1 h], rfl⟩
  | succ n ih =>
    obtain ⟨u, hu, hn⟩ := runsTo_succ_iff.1 h
    obtain ⟨reads, seen, number⟩ := ih hn
    refine ⟨s.readsNext ++ reads, by rw [seen, step_seen hu, List.append_assoc], ?_⟩
    rw [List.length_append, number, length_readsNext, step_moves hu, ← List.countP_append]
    cases s.moves <;> simp

/-- Settles O59: one step by `step_seen`, a run by `runsTo_seen`. -/
theorem resultHoldsEverythingRead : Obligations.ResultHoldsEverythingRead := by
  refine ⟨fun s t => step_seen, fun s n t h => ?_⟩
  obtain ⟨reads, seen, number⟩ := runsTo_seen h
  exact ⟨reads, seen, number, by rw [State.result, seen, Block.view]⟩

/-- There is no fault. -/
theorem runsTo_or_refused (s : State) (n : Nat) :
    (∃ t, s.RunsTo n t) ∨ ∃ r, Host.Core.run core n s = .refused r := by
  unfold State.RunsTo
  cases Host.Core.run core n s with
  | next t => exact .inl ⟨t, rfl⟩
  | fault f => exact nomatch (f : Fault)
  | refused r => exact .inr ⟨r, rfl⟩

/-- Settles O51: no fault by `runsTo_or_refused`, the moves left by `runsTo_moves`. -/
theorem runMakesEveryMoveAndStops : Obligations.RunMakesEveryMoveAndStops :=
  ⟨runsTo_or_refused, fun _ _ h => (runsTo_moves h).trans List.drop_length, fun _ => step_nil⟩

/-! Runs of one kind of move. -/

/-- Host writes change `IBUF` and nothing else, however many there are. -/
theorem runsTo_writes (writes : List (List Byte)) (fits : ∀ w ∈ writes, w.length ≤ s.cfg.icap)
    (h : s.moves = writes.map .write ++ rest) : ∃ m, s.RunsTo writes.length { s with ibuf := m, moves := rest } := by
  induction writes generalizing s with
  | nil => exact ⟨s.ibuf, RunsTo_zero.2 (by rw [← show s.moves = rest from h])⟩
  | cons w writes ih =>
    obtain ⟨fit, fits⟩ := List.forall_mem_cons.1 fits
    obtain ⟨m, run⟩ := ih (s := { s with ibuf := w, moves := writes.map .write ++ rest }) fits rfl
    exact ⟨m, (RunsTo_succ (step_write h fit)).2 run⟩

theorem exec_chEmit {c : Chunk} (hc : s.ck = some c) : exec .chEmit s = .next { s with obuf := c.wire, stErr := 0#4 } :=
  withChunk_of_some hc

/-- Settles O49: the writes by `runsTo_writes`; CH.EMIT writes the record of the chunk held before and after. -/
theorem heldChunkDoesNotAliasInput : Obligations.HeldChunkDoesNotAliasInput := by
  intro s c writes rest hc fits h
  obtain ⟨m, run⟩ := runsTo_writes writes fits h
  exact ⟨_, run, hc, rfl, _, _, exec_chEmit hc, exec_chEmit hc, rfl⟩

theorem encode_crcByte (b : Byte) : encode (.crcByte b) = BitVec.ofNat 40 (0x0100000000 + b.toNat) := by
  rw [← (crcByteFeedsOneByte b State.reset).1, BitVec.ofNat_toNat, BitVec.setWidth_eq]

/-- CRC.BYTES with its bytes to come runs `crc_acc` over them. -/
theorem runsTo_crcBytes (bytes : List Byte) (h : s.moves = assembleLine (.crcBytes bytes) ++ rest) :
    ∃ e, s.RunsTo bytes.length { s with acc := crcAcc s.acc bytes, stErr := e, moves := rest } := by
  induction bytes generalizing s with
  | nil => exact ⟨s.stErr, RunsTo_zero.2 (by rw [← show s.moves = rest from h]; rfl)⟩
  | cons b bytes ih =>
    have one : step s = .next
        { s with acc := crcStep s.acc b, stErr := 0#4, moves := assembleLine (.crcBytes bytes) ++ rest } :=
      step_command (i := .crcByte b) (wf_of_not_isText rfl) h rfl
    obtain ⟨e, run⟩ := ih (s := { s with
      acc := crcStep s.acc b, stErr := 0#4, moves := assembleLine (.crcBytes bytes) ++ rest }) rfl
    exact ⟨e, (RunsTo_succ one).2 run⟩

/-- Settles O50: the words by `encode_crcByte`, the run by `runsTo_crcBytes`. -/
theorem pseudoInstructionFeedsItsBytes : Obligations.PseudoInstructionFeedsItsBytes := by
  refine fun bytes s rest => ⟨by simp only [assembleLine, encode_crcByte], fun h => ?_⟩
  obtain ⟨e, run⟩ := runsTo_crcBytes bytes h
  exact ⟨_, run, rfl, rfl, rfl, rfl⟩

/-! The bytes that `ACC` stands for (40_crc_generator.md R104). -/

/-- A command keeps `ACC` the accumulation of the bytes fed since the last start. -/
theorem exec_acc_fedAfter {i : Instr} {m : List Byte} (hm : s.acc = crcAcc crcInitial m) (h : exec i s = .next t) :
    t.acc = crcAcc crcInitial (fedAfter i s m) := by
  cases i with
  | crcInit =>
    cases (exec_crcInit s).symm.trans h
    rfl
  | crcByte b =>
    cases (exec_crcByte b s).symm.trans h
    simp [fedAfter, crcAcc_append, hm]
  | crcBuf =>
    cases (exec_crcBuf s).symm.trans h
    simp [fedAfter, crcAcc_append, hm]
  | crcSum =>
    cases (exec_crcSum s).symm.trans h
    rfl
  | _ => exact (exec_acc h rfl).trans hm

/-- Settles O11: a command by `exec_acc_fedAfter`, reset by its value, and no other move touches `ACC`. -/
theorem accIsCrcOfBytesFed : Obligations.AccIsCrcOfBytesFed := by
  refine ⟨rfl, fun s t m hm h => ?_⟩
  unfold fedAfterStep
  cases step_next_cases h with
  | idle hmoves ht => simpa [hmoves, ht] using hm
  | write bytes rest hmoves _ ht => simpa [hmoves, ht] using hm
  | loop rest hmoves _ ht => simpa [hmoves, ht] using hm
  | read rest hmoves ht => simpa [hmoves, ht] using hm
  | reset rest hmoves ht => simp [hmoves, ht, Block.reset]
  | command w rest i hmoves hi ht =>
    simp only [hmoves, hi]
    exact exec_acc_fedAfter (s := { s with moves := rest }) hm ht

end Sys2Proof.Machine
end

section
/-! PROOFS. CH.PARSE as a reading of the record at the front of the buffer (42_chunk_framer.md R155, R157, R174). -/

namespace Sys2Proof.Machine

open Sys2Proof

variable {s t : State} {c : Chunk} {m rest : List Byte}

/-! Reading fields. -/

theorem memRead_add (m : Memory) (off a b : Nat) :
    memRead m off (a + b) = memRead m off a ++ memRead m (off + a) b := by
  rw [memRead, List.take_add, List.drop_drop]
  rfl

theorem memRead_succ {off : Nat} (n : Nat) (h : off < m.length) :
    memRead m off (n + 1) = memByte m off :: memRead m (off + 1) n := by
  rw [memRead, List.drop_eq_getElem_cons h, List.take_succ_cons, memByte_eq h]
  rfl

theorem memRead_four {off : Nat} (h : off + 4 ≤ m.length) :
    memRead m off 4 = [memByte m off, memByte m (off + 1), memByte m (off + 2), memByte m (off + 3)] := by
  rw [memRead_succ 3 (by omega), memRead_succ 2 (by omega), memRead_succ 1 (by omega), memRead_succ 0 (by omega)]
  rfl

theorem be32Bytes_be32At {off : Nat} (h : off + 4 ≤ m.length) : be32Bytes (be32At m off) = memRead m off 4 := by
  rw [be32At, be32Bytes_be32, memRead_four h]

theorem bytes_typeAt {off : Nat} (h : off + 4 ≤ m.length) : (typeAt m off).bytes = memRead m off 4 :=
  (memRead_four h).symm

theorem be32At_be32Bytes_append (u : List Byte) (v : Word) (w : List Byte) :
    be32At (u ++ (be32Bytes v ++ w)) u.length = v :=
  (be32At_append u _ _ _ _ w).trans (be32_be32Bytes v)

/-! The record at the front of a buffer. -/

/-- The fields that CH.PARSE reads, at the offsets of 30_encoding.md R76. -/
def recordAt (m : Memory) : Chunk :=
  ⟨be32At m offLength, typeAt m offType, memRead m offData (be32At m offLength).toNat,
    be32At m (offCrc (be32At m offLength).toNat)⟩

theorem take_eq_fields {n : Nat} (h : 12 + n ≤ m.length) :
    m.take (12 + n) = be32Bytes (be32At m offLength) ++ (typeAt m offType).bytes ++ memRead m offData n ++
      be32Bytes (be32At m (offCrc n)) := by
  simp only [offLength, offType, offData, offCrc]
  rw [be32Bytes_be32At (by omega), bytes_typeAt (by omega), be32Bytes_be32At (by omega)]
  have split : memRead m 0 (4 + 4 + n + 4) = _ := memRead_add m 0 (4 + 4 + n) 4
  rw [memRead_add m 0 (4 + 4) n, memRead_add m 0 4 4, Nat.zero_add, Nat.zero_add, Nat.zero_add] at split
  rw [← split, memRead, List.drop_zero]
  congr 1
  omega

/-- A buffer long enough for the length it names is a record and what follows it. -/
theorem wire_recordAt (h : 12 + (recordAt m).len.toNat ≤ m.length) :
    (recordAt m).len.toNat = (recordAt m).data.length ∧
      m = (recordAt m).wire ++ m.drop (12 + (recordAt m).len.toNat) := by
  have hl : (recordAt m).len.toNat = (recordAt m).data.length :=
    (length_memRead (show 8 + (recordAt m).len.toNat ≤ m.length by omega)).symm
  refine ⟨hl, ?_⟩
  rw [wire_eq hl]
  exact (List.take_append_drop _ m).symm.trans (congrArg (· ++ _) (take_eq_fields h))

/-- Behind the record of a chunk nothing is read. -/
theorem recordAt_wire (hl : c.len.toNat = c.data.length) (rest : List Byte) : recordAt (c.wire ++ rest) = c := by
  have len : be32At (c.wire ++ rest) offLength = c.len := be32_be32Bytes c.len
  have typ : typeAt (c.wire ++ rest) offType = c.typ := rfl
  have data : memRead (c.wire ++ rest) offData c.len.toNat = c.data := by
    rw [wire_eq hl, hl, List.append_assoc, List.append_assoc]
    exact memRead_append (be32Bytes c.len ++ c.typ.bytes) c.data _
  have crc : be32At (c.wire ++ rest) (offCrc c.len.toNat) = c.crc := by
    rw [wire_eq hl, hl, List.append_assoc]
    have size : offCrc c.data.length = (be32Bytes c.len ++ c.typ.bytes ++ c.data).length := by
      simp [offCrc]
      omega
    rw [size]
    exact be32At_be32Bytes_append _ _ _
  rw [recordAt, len, typ, data, crc]

/-- What the CRC is taken over. -/
theorem memRead_covered (h : 8 + (recordAt m).len.toNat ≤ m.length) :
    memRead m offType (4 + (recordAt m).len.toNat) = (recordAt m).typ.bytes ++ (recordAt m).data := by
  rw [memRead_add, ← bytes_typeAt (by simp only [offType]; omega)]
  rfl

/-! The verdict on a record. -/

/-- Steps 5 to 10 of R155, on the fields of the record. -/
def Chunk.verdict (c : Chunk) (s : State) : State :=
  if c.typ.alpha = false then { s with ck := none, stErr := 1#4 }
  else if crc32 (c.typ.bytes ++ c.data) ≠ c.crc then
    { s with ck := none, stErr := 6#4, stExp := crc32 (c.typ.bytes ++ c.data), stFnd := c.crc }
  else { s with ck := some c, stErr := 0#4 }

theorem verdict_of_not_alpha (h : c.typ.alpha = false) : c.verdict s = { s with ck := none, stErr := 1#4 } := if_pos h

theorem verdict_of_mismatch (ht : c.typ.alpha = true) (h : crc32 (c.typ.bytes ++ c.data) ≠ c.crc) :
    c.verdict s =
      { s with ck := none, stErr := 6#4, stExp := crc32 (c.typ.bytes ++ c.data), stFnd := c.crc } := by
  rw [Chunk.verdict, if_neg (ne_false_of_eq_true ht), if_pos h]

theorem verdict_of_match (ht : c.typ.alpha = true) (h : crc32 (c.typ.bytes ++ c.data) = c.crc) :
    c.verdict s = { s with ck := some c, stErr := 0#4 } := by
  rw [Chunk.verdict, if_neg (ne_false_of_eq_true ht), if_neg (not_not.2 h)]

/-- A verdict of success says what was checked, and that the record's chunk is held. -/
theorem verdict_stErr_zero (h : (c.verdict s).stErr = 0#4) :
    c.typ.alpha = true ∧ crc32 (c.typ.bytes ++ c.data) = c.crc ∧ (c.verdict s).ck = some c := by
  cases ht : c.typ.alpha with
  | false =>
    rw [verdict_of_not_alpha ht] at h
    cases h
  | true =>
    by_cases hc : crc32 (c.typ.bytes ++ c.data) = c.crc
    · exact ⟨rfl, hc, by rw [verdict_of_match ht hc]⟩
    · rw [verdict_of_mismatch ht hc] at h
      cases h

/-- The verdict does not rest on the buffer. -/
theorem verdict_withIbuf (c : Chunk) (s : State) (m : Memory) :
    c.verdict { s with ibuf := m } = { c.verdict s with ibuf := m } := by
  unfold Chunk.verdict
  split
  · rfl
  · split <;> rfl

theorem parseRecord_eq_verdict (h : 8 + (recordAt s.ibuf).len.toNat ≤ s.ilen) :
    parseRecord (be32At s.ibuf offLength) s = .next ((recordAt s.ibuf).verdict s) := by
  have covered : memRead s.ibuf offType (4 + (be32At s.ibuf offLength).toNat) = _ := memRead_covered h
  rw [parseRecord, covered, Chunk.verdict, apply_ite Host.Outcome.next, apply_ite Host.Outcome.next]
  rfl

/-- What CH.PARSE does with a buffer that holds a whole record of a length it can take. -/
theorem execChParse_of_record (whole : 12 + (recordAt s.ibuf).len.toNat ≤ s.ilen)
    (legal : (recordAt s.ibuf).len.toNat ≤ lenMax) (fits : (recordAt s.ibuf).len.toNat ≤ s.cfg.dcap) :
    execChParse s = .next ((recordAt s.ibuf).verdict s) := by
  have field : be32At s.ibuf offLength = (recordAt s.ibuf).len := rfl
  have parse := execChParse_of_length (by omega) field
  rw [if_neg legal.not_gt, if_neg fits.not_gt, if_neg whole.not_gt] at parse
  exact parse.trans (parseRecord_eq_verdict (by omega))

/-- The same, on the record of a chunk followed by any bytes. -/
theorem execChParse_of_wire (hl : c.len.toNat = c.data.length) (legal : c.len.toNat ≤ lenMax)
    (fits : c.len.toNat ≤ s.cfg.dcap) (hb : s.ibuf = c.wire ++ rest) : execChParse s = .next (c.verdict s) := by
  have record : recordAt s.ibuf = c := hb ▸ recordAt_wire hl rest
  have whole : 12 + c.len.toNat ≤ s.ilen := by
    rw [Block.ilen, hb, List.length_append, length_wire hl]
    exact Nat.le_add_right ..
  have parse := execChParse_of_record (s := s)
  rw [record] at parse
  exact parse whole legal fits

/-- CH.PARSE answers in one of three ways: Truncated, LengthTooLarge, or the verdict on the record of a chunk. -/
inductive ParseCase (s t : State) : Prop
  | truncated (ht : t = { s with ck := none, stErr := 5#4 })
  | tooLarge (h12 : 12 ≤ s.ilen) (long : lenMax < (be32At s.ibuf offLength).toNat)
      (ht : t = { s with ck := none, stErr := 4#4 })
  | record (c : Chunk) (rest : List Byte) (hb : s.ibuf = c.wire ++ rest) (hl : c.len.toNat = c.data.length)
      (legal : c.len.toNat ≤ lenMax) (fits : c.len.toNat ≤ s.cfg.dcap) (ht : t = c.verdict s)

theorem execChParse_parseCase (h : execChParse s = .next t) : ParseCase s t := by
  by_cases h12 : s.ilen < 12
  · exact .truncated (Host.Outcome.next.inj ((execChParse_of_short h12).symm.trans h)).symm
  rw [execChParse_of_length (by omega) (show be32At s.ibuf offLength = (recordAt s.ibuf).len from rfl)] at h
  split at h
  next long => exact .tooLarge (by omega) long (Host.Outcome.next.inj h).symm
  next legal =>
    split at h
    next => cases h
    next fits =>
      split at h
      next => exact .truncated (Host.Outcome.next.inj h).symm
      next whole =>
        have size : 12 + (recordAt s.ibuf).len.toNat ≤ s.ibuf.length := Nat.not_lt.1 whole
        obtain ⟨hl, hb⟩ := wire_recordAt size
        have verdict := (parseRecord_eq_verdict (s := s) (by simp only [Block.ilen]; omega)).symm.trans h
        exact .record _ _ hb hl (Nat.not_lt.1 legal) (Nat.not_lt.1 fits) (Host.Outcome.next.inj verdict).symm

theorem Chunk.Ok.data_le {cap : Nat} (h : c.Ok cap) : c.len.toNat ≤ cap := h.len_eq ▸ (Memory.wf_iff _ _).1 h.data_fits

/-- On the record of a valid chunk CH.PARSE holds that chunk. -/
theorem execChParse_of_ok (ok : c.Ok s.cfg.dcap) (hb : s.ibuf = c.wire ++ rest) :
    execChParse s = .next { s with ck := some c, stErr := 0#4 } := by
  rw [execChParse_of_wire ok.len_eq ok.len_le ok.data_le hb, verdict_of_match ok.type_alpha ok.crc_eq.symm]

/-- A chunk that CH.PARSE takes from a record is valid and fits the store. -/
theorem ok_of_verdict {cap : Nat} (hl : c.len.toNat = c.data.length) (legal : c.len.toNat ≤ lenMax)
    (fits : c.len.toNat ≤ cap) (h : (c.verdict s).stErr = 0#4) : c.Ok cap where
  len_eq := hl
  crc_eq := (verdict_stErr_zero h).2.1.symm
  len_le := legal
  type_alpha := (verdict_stErr_zero h).1
  data_fits := (Memory.wf_iff _ _).2 (hl ▸ fits)

/-- Settles O24: one way by the verdict on the record read, the other by `execChParse_of_ok`. -/
theorem parseAcceptsExactlyValidRecords : Obligations.ParseAcceptsExactlyValidRecords := by
  refine fun s c => ⟨fun ⟨t, h, ok, held⟩ => ?_, fun ⟨ok, rest, hb⟩ => ⟨_, execChParse_of_ok ok hb, rfl, rfl⟩⟩
  cases execChParse_parseCase h with
  | truncated ht => simp [ht] at ok
  | tooLarge _ _ ht => simp [ht] at ok
  | record c' rest hb hl legal fits ht =>
    subst ht
    obtain ⟨-, -, held'⟩ := verdict_stErr_zero ok
    obtain rfl := Option.some.inj (held'.symm.trans held)
    exact ⟨ok_of_verdict hl legal fits ok, rest, hb⟩

/-- Settles O25: the record stays the same record of the longer buffer, and the length field the same field. -/
theorem parseIgnoresTrailingBytes : Obligations.ParseIgnoresTrailingBytes := by
  intro s t more h complete
  cases execChParse_parseCase h with
  | truncated ht => exact absurd (congrArg (·.stErr) ht) complete
  | tooLarge h12 long ht =>
    have field : be32At (s.ibuf ++ more) offLength = be32At s.ibuf offLength :=
      be32At_congr fun a _ ha => List.getElem?_append_left (lt_of_lt_of_le ha (le_trans (by decide) h12))
    have parse := execChParse_of_length (s := { s with ibuf := s.ibuf ++ more })
      (h12.trans (by simp [Block.ilen])) field
    exact (parse.trans (if_pos long)).trans (by rw [ht])
  | record c rest hb hl legal fits ht =>
    have hb' : s.ibuf ++ more = c.wire ++ (rest ++ more) := by rw [hb, List.append_assoc]
    exact (execChParse_of_wire (s := { s with ibuf := s.ibuf ++ more }) hl legal fits hb').trans
      (by rw [verdict_withIbuf, ht])

/-- Settles O26: under 12 bytes by the first step; otherwise the length field is whole and asks for more bytes than
there are. -/
theorem parseOfProperPrefixIsTruncated : Obligations.ParseOfProperPrefixIsTruncated := by
  intro s c n ok hn hb
  have size : s.ilen = n := by
    rw [Block.ilen, hb, List.length_take, length_wire ok.len_eq, Nat.min_eq_left hn.le]
  by_cases h12 : s.ilen < 12
  · exact execChParse_of_short h12
  have field : be32At s.ibuf offLength = c.len := by
    have front : be32At s.ibuf offLength = be32At c.wire offLength :=
      be32At_congr fun a _ ha => by
        rw [hb, List.getElem?_take_of_lt (by simp only [offLength] at ha; omega)]
    exact front.trans (be32_be32Bytes c.len)
  refine (execChParse_of_length (by omega) field).trans ?_
  rw [if_neg ok.len_le.not_gt, if_neg ok.data_le.not_gt, if_pos (size ▸ hn)]

end Sys2Proof.Machine
end

section
/-! PROOFS. One inverted bit of a serialised chunk (42_chunk_framer.md R173). -/

namespace Sys2Proof.Machine

open Sys2Proof

variable {s : State} {c : Chunk} {u v m : List Byte} {k j n : Nat}

/-! Inverting a bit of a byte sequence. -/

@[simp] theorem length_flipBit (m : List Byte) (k j : Nat) : (flipBit m k j).length = m.length := List.length_modify ..

theorem flipBit_append_left (h : k < u.length) : flipBit (u ++ v) k j = flipBit u k j ++ v := by
  induction u generalizing k with
  | nil => cases h
  | cons b u ih =>
    cases k with
    | zero => rfl
    | succ k => exact congrArg (b :: ·) (ih (Nat.lt_of_succ_lt_succ h))

theorem flipBit_append_right (h : u.length ≤ k) : flipBit (u ++ v) k j = u ++ flipBit v (k - u.length) j := by
  induction u generalizing k with
  | nil => rfl
  | cons b u ih =>
    obtain ⟨k, rfl⟩ : ∃ l, k = l + 1 := ⟨k - 1, by simp at h; omega⟩
    rw [List.length_cons, Nat.succ_sub_succ]
    exact congrArg (b :: ·) (ih (Nat.le_of_succ_le_succ h))

theorem getElem?_flipBit_ne {a : Nat} (h : k ≠ a) : (flipBit m k j)[a]? = m[a]? := List.getElem?_modify_ne _ _ h

/-- The sequence before and after, around the one byte that changes. -/
theorem exists_of_flipBit (h : k < m.length) (hj : j < 8) : ∃ u b b' v, u.length = k ∧ b ≠ b' ∧ m = u ++ b :: v ∧
    flipBit m k j = u ++ b' :: v := by
  obtain ⟨u, b, v, rfl, hu, flipped⟩ := List.exists_of_modify (fun b => b ^^^ (1#8 <<< j)) h
  exact ⟨u, b, _, v, hu, (xor_bit_ne b hj).symm, rfl, flipped⟩

theorem flipBit_ne (h : k < m.length) (hj : j < 8) : flipBit m k j ≠ m := by
  obtain ⟨u, b, b', v, -, differ, before, after⟩ := exists_of_flipBit h hj
  rw [after, before]
  simpa using differ.symm

theorem crc32_flipBit_ne (h : k < m.length) (hj : j < 8) : crc32 (flipBit m k j) ≠ crc32 m := by
  obtain ⟨u, b, b', v, -, differ, before, after⟩ := exists_of_flipBit h hj
  rw [after, before]
  exact crc32_ne_of_byte_ne differ.symm u v

/-! Four bytes are a type's, and a word's. -/

theorem exists_bytes_eq (h : m.length = 4) : ∃ t : TypeCode, t.bytes = m := by
  obtain ⟨b0, b1, b2, b3, rfl⟩ := List.length_eq_four.1 h
  exact ⟨⟨b0, b1, b2, b3⟩, rfl⟩

theorem exists_be32Bytes_eq (h : m.length = 4) : ∃ f : Word, be32Bytes f = m := by
  obtain ⟨b0, b1, b2, b3, rfl⟩ := List.length_eq_four.1 h
  exact ⟨be32 b0 b1 b2 b3, be32Bytes_be32 b0 b1 b2 b3⟩

theorem alpha_eq_all (t : TypeCode) : t.alpha = t.bytes.all isAlpha := by
  simp [TypeCode.alpha, TypeCode.bytes, Bool.and_assoc]

/-- With one byte changed, a valid type is valid where the new byte is a letter. -/
theorem alpha_of_flipped {t t' : TypeCode} (ht : t.alpha = true) (hk : k < 4) (hj : j < 8)
    (flipped : t'.bytes = flipBit t.bytes k j) : ∃ b, t'.bytes[k]? = some b ∧ t'.alpha = isAlpha b := by
  obtain ⟨u, b, b', v, rfl, -, before, after⟩ := exists_of_flipBit (m := t.bytes) hk hj
  rw [alpha_eq_all, before] at ht
  rw [alpha_eq_all, flipped, after]
  simp only [List.all_append, List.all_cons, Bool.and_eq_true] at ht ⊢
  obtain ⟨hu, -, hv⟩ := ht
  exact ⟨b', by simp, by simp [hu, hv]⟩

/-! A bit outside the length field: the record of another chunk of the same length, whose CRC does not fit. -/

theorem wire_getElem?_type (hl : c.len.toNat = c.data.length) (h4 : 4 ≤ k) (h8 : k < 8) :
    c.wire[k]? = c.typ.bytes[k - 4]? := by
  rw [wire_eq hl, List.append_assoc, List.append_assoc, List.getElem?_append_right h4,
    List.getElem?_append_left (show k - 4 < 4 by omega), length_be32Bytes]

theorem flipBit_wire_type (hl : c.len.toNat = c.data.length) (h4 : 4 ≤ k) (h8 : k < 8) (hj : j < 8) :
    ∃ t : TypeCode, flipBit c.wire k j = { c with typ := t }.wire ∧ t.bytes = flipBit c.typ.bytes (k - 4) j ∧
      crc32 (t.bytes ++ c.data) ≠ crc32 (c.typ.bytes ++ c.data) := by
  obtain ⟨t, ht⟩ := exists_bytes_eq (m := flipBit c.typ.bytes (k - 4) j) (length_flipBit ..)
  have inType : k - 4 < c.typ.bytes.length := show k - 4 < 4 by omega
  refine ⟨t, ?_, ht, ?_⟩
  · rw [wire_eq hl, wire_eq (c := { c with typ := t }) hl, ht]
    simp only [List.append_assoc]
    rw [flipBit_append_right (by simpa using h4), length_be32Bytes, flipBit_append_left inType]
  · rw [ht, ← flipBit_append_left inType]
    exact crc32_flipBit_ne (by simp; omega) hj

theorem flipBit_wire_data (hl : c.len.toNat = c.data.length) (h8 : 8 ≤ k) (hk : k < 8 + c.len.toNat) (hj : j < 8) :
    ∃ d : Memory, flipBit c.wire k j = { c with data := d }.wire ∧ d.length = c.data.length ∧
      crc32 (c.typ.bytes ++ d) ≠ crc32 (c.typ.bytes ++ c.data) := by
  have inData : k - 8 < c.data.length := by omega
  refine ⟨flipBit c.data (k - 8) j, ?_, length_flipBit .., ?_⟩
  · rw [wire_eq hl, wire_eq (c := { c with data := flipBit c.data (k - 8) j }) (hl.trans (length_flipBit ..).symm)]
    rw [List.append_assoc, flipBit_append_right (by simpa using h8), List.length_append, length_be32Bytes,
      length_typeBytes, flipBit_append_left inData, ← List.append_assoc]
  · have inBoth : c.typ.bytes ++ flipBit c.data (k - 8) j =
        flipBit (c.typ.bytes ++ c.data) (c.typ.bytes.length + (k - 8)) j := by
      rw [flipBit_append_right (Nat.le_add_right ..), Nat.add_sub_cancel_left]
    rw [inBoth]
    exact crc32_flipBit_ne (by simp; omega) hj

theorem flipBit_wire_crc (hl : c.len.toNat = c.data.length) (h8 : 8 + c.len.toNat ≤ k) (hk : k < 12 + c.len.toNat)
    (hj : j < 8) : ∃ f : Word, flipBit c.wire k j = { c with crc := f }.wire ∧ f ≠ c.crc := by
  obtain ⟨f, hf⟩ := exists_be32Bytes_eq (m := flipBit (be32Bytes c.crc) (k - (8 + c.len.toNat)) j) (length_flipBit ..)
  refine ⟨f, ?_, fun same => ?_⟩
  · have size : (be32Bytes c.len ++ c.typ.bytes ++ c.data).length = 8 + c.len.toNat := by
      simp [hl]
      omega
    rw [wire_eq hl, wire_eq (c := { c with crc := f }) hl, hf, flipBit_append_right (size ▸ h8), size]
  · rw [same] at hf
    exact flipBit_ne (show k - (8 + c.len.toNat) < 4 by omega) hj hf.symm

/-- The verdict on a record whose CRC does not fit. -/
theorem verdict_of_crc_ne (h : crc32 (c.typ.bytes ++ c.data) ≠ c.crc) :
    (c.verdict s).ck = none ∧ (c.verdict s).stErr = if c.typ.alpha = true then 6#4 else 1#4 := by
  cases ht : c.typ.alpha with
  | false => simp [verdict_of_not_alpha ht]
  | true => simp [verdict_of_mismatch ht h]

/-- CH.PARSE on a record as long as a valid chunk's, whose CRC does not fit. -/
theorem execChParse_of_crc_ne {c' : Chunk} (ok : c.Ok s.cfg.dcap) (hb : s.ibuf = c'.wire) (hlen : c'.len = c.len)
    (hl : c'.data.length = c.data.length) (differ : crc32 (c'.typ.bytes ++ c'.data) ≠ c'.crc) :
    ∃ t, execChParse s = .next t ∧ t.ck = none ∧ t.stErr = if c'.typ.alpha = true then 6#4 else 1#4 :=
  ⟨_, execChParse_of_wire (rest := []) (by rw [hlen, hl, ok.len_eq]) (hlen ▸ ok.len_le) (hlen ▸ ok.data_le)
    (hb.trans (List.append_nil _).symm), verdict_of_crc_ne differ⟩

/-- A bit of the type: the error is that of the type where the byte is no letter any more. -/
theorem execChParse_of_flipped_type (ok : c.Ok s.cfg.dcap) (h4 : 4 ≤ k) (h8 : k < 8) (hj : j < 8)
    (hb : s.ibuf = flipBit c.wire k j) : ∃ t b, execChParse s = .next t ∧ t.ck = none ∧ s.ibuf[k]? = some b ∧
      t.stErr = if isAlpha b = true then 6#4 else 1#4 := by
  obtain ⟨u, hw, hu, differ⟩ := flipBit_wire_type ok.len_eq h4 h8 hj
  obtain ⟨b, hbyte, alpha⟩ := alpha_of_flipped ok.type_alpha (by omega) hj hu
  obtain ⟨t, parse, none, code⟩ :=
    execChParse_of_crc_ne (c' := { c with typ := u }) ok (hb.trans hw) rfl rfl (ok.crc_eq ▸ differ)
  refine ⟨t, b, parse, none, ?_, alpha ▸ code⟩
  rw [hb, hw, wire_getElem?_type (c := { c with typ := u }) ok.len_eq h4 h8, hbyte]

/-- A bit of the data or of the stored CRC: the type is as it was, so the error is that of the CRC. -/
theorem execChParse_of_flipped_data_or_crc (ok : c.Ok s.cfg.dcap) (h8 : 8 ≤ k) (hk : k < 12 + c.len.toNat) (hj : j < 8)
    (hb : s.ibuf = flipBit c.wire k j) : ∃ t, execChParse s = .next t ∧ t.ck = none ∧ t.stErr = 6#4 := by
  have code : (if c.typ.alpha = true then 6#4 else 1#4) = 6#4 := if_pos ok.type_alpha
  rw [← code]
  by_cases hd : k < 8 + c.len.toNat
  · obtain ⟨d, hw, hl, differ⟩ := flipBit_wire_data ok.len_eq h8 hd hj
    exact execChParse_of_crc_ne (c' := { c with data := d }) ok (hb.trans hw) rfl hl (ok.crc_eq ▸ differ)
  · obtain ⟨f, hw, differ⟩ := flipBit_wire_crc ok.len_eq (Nat.not_lt.1 hd) hk hj
    exact execChParse_of_crc_ne (c' := { c with crc := f }) ok (hb.trans hw) rfl rfl (ok.crc_eq ▸ differ.symm)

/-- Settles O34: by the field in which the bit stands. -/
theorem flippedBitAfterLengthIsDetected : Obligations.FlippedBitAfterLengthIsDetected := by
  intro s c k j ok h4 hk hj hb
  by_cases h8 : k < 8
  · obtain ⟨t, b, parse, none, byte, code⟩ := execChParse_of_flipped_type ok h4 h8 hj hb
    have letter : isAlpha b = true ↔ Letter b := isAlpha_iff b
    refine ⟨t, parse, none, fun good => code.trans (if_pos ?_), fun bad => code.trans (if_neg ?_)⟩
    · exact letter.2 (good.resolve_left h8.not_ge b byte)
    · exact mt letter.1 (bad.2 b byte)
  · obtain ⟨t, parse, none, code⟩ := execChParse_of_flipped_data_or_crc ok (Nat.not_lt.1 h8) hk hj hb
    exact ⟨t, parse, none, fun _ => code, fun bad => absurd bad.1 h8⟩

/-! A bit of the length field. -/

/-- Bit `n` of a word is bit `n % 8` of byte `3 - n / 8` (00_scope.md R10). -/
theorem flipBit_be32Bytes (w : Word) (hn : n < 32) :
    flipBit (be32Bytes w) (3 - n / 8) (n % 8) = be32Bytes (w ^^^ BitVec.twoPow 32 n) := by
  have bits : ∀ n < 32, ∀ k < 4, (BitVec.twoPow 32 n).extractLsb' (24 - 8 * k) 8 =
      if 3 - n / 8 = k then 1#8 <<< (n % 8) else 0#8 := by decide
  apply List.ext_getElem?
  intro k
  by_cases hk : k < 4
  · rw [be32Bytes_getElem? _ hk, flipBit, List.getElem?_modify, be32Bytes_getElem? _ hk, BitVec.extractLsb'_xor,
      bits n hn k hk]
    split <;> simp
  · rw [List.getElem?_eq_none (by simpa using hk), List.getElem?_eq_none (by simpa using hk)]

theorem toNat_xor_twoPow_of_clear {w : Word} (hn : n < 32) (h : w.getLsbD n = false) :
    (w ^^^ BitVec.twoPow 32 n).toNat = w.toNat + 2 ^ n := by
  have apart : w &&& BitVec.twoPow 32 n = 0#32 := by simp [BitVec.and_twoPow, h]
  have sum : w ^^^ BitVec.twoPow 32 n = w + BitVec.twoPow 32 n := by
    rw [BitVec.add_eq_or_of_and_eq_zero _ _ apart]
    apply BitVec.eq_of_getLsbD_eq
    intro i _
    rw [BitVec.getLsbD_xor, BitVec.getLsbD_or, BitVec.getLsbD_twoPow]
    by_cases hi : n = i
    · simp [← hi, h]
    · simp [hi]
  rw [sum, BitVec.toNat_add_of_and_eq_zero apart, BitVec.toNat_twoPow_of_lt hn]

theorem toNat_xor_twoPow_of_set {w : Word} (hn : n < 32) (h : w.getLsbD n = true) :
    (w ^^^ BitVec.twoPow 32 n).toNat + 2 ^ n = w.toNat := by
  have clear : (w ^^^ BitVec.twoPow 32 n).getLsbD n = false := by simp [h, hn]
  rw [← toNat_xor_twoPow_of_clear hn clear, BitVec.xor_assoc, BitVec.xor_self, BitVec.xor_zero]

/-- The fields of a record with a bit of its length inverted: all but the length are read where they stand. -/
theorem flipBit_wire_length (hl : c.len.toNat = c.data.length) (hn : n < 32) :
    be32At (flipBit c.wire (3 - n / 8) (n % 8)) offLength = c.len ^^^ BitVec.twoPow 32 n ∧
    typeAt (flipBit c.wire (3 - n / 8) (n % 8)) offType = c.typ ∧
    ∀ len, memRead (flipBit c.wire (3 - n / 8) (n % 8)) offType len = memRead c.wire offType len := by
  have beyond (a : Nat) (ha : offType ≤ a) : (flipBit c.wire (3 - n / 8) (n % 8))[a]? = c.wire[a]? :=
    getElem?_flipBit_ne (by simp only [offType] at ha; omega)
  refine ⟨?_, typeAt_congr fun a ha _ => beyond a ha, fun len => memRead_congr fun a ha _ => beyond a ha⟩
  rw [wire_eq hl, List.append_assoc, List.append_assoc, flipBit_append_left (show 3 - n / 8 < 4 by omega),
    flipBit_be32Bytes _ hn]
  exact be32_be32Bytes _

theorem ilen_of_flipped (ok : c.Ok s.cfg.dcap) (hb : s.ibuf = flipBit c.wire k j) : s.ilen = 12 + c.len.toNat := by
  rw [Block.ilen, hb, length_flipBit, length_wire ok.len_eq]

/-- A bit of the length that was 1: a shorter record is read from the bytes of the chunk's, with its type. -/
theorem execChParse_of_shortened (ok : c.Ok s.cfg.dcap) (hn : n < 32) (hb : s.ibuf = flipBit c.wire (3 - n / 8) (n % 8))
    (set : c.len.getLsbD n = true) : ∃ c' : Chunk, execChParse s = .next (c'.verdict s) ∧ c'.typ.alpha = true ∧
      c'.len.toNat + 2 ^ n = c.len.toNat ∧ c'.typ.bytes ++ c'.data = memRead c.wire 4 (4 + c'.len.toNat) := by
  obtain ⟨field, typ, covered⟩ := flipBit_wire_length ok.len_eq hn
  rw [← hb] at field typ covered
  have size := ilen_of_flipped ok hb
  have shorter : (recordAt s.ibuf).len.toNat + 2 ^ n = c.len.toNat :=
    (congrArg (BitVec.toNat · + 2 ^ n) field).trans (toNat_xor_twoPow_of_set hn set)
  have le : (recordAt s.ibuf).len.toNat ≤ c.len.toNat := shorter ▸ Nat.le_add_right ..
  have whole : 12 + (recordAt s.ibuf).len.toNat ≤ s.ilen := by omega
  refine ⟨_, execChParse_of_record whole (le.trans ok.len_le) (le.trans ok.data_le),
    (congrArg TypeCode.alpha typ).trans ok.type_alpha, shorter, ?_⟩
  have inside : 8 + (recordAt s.ibuf).len.toNat ≤ s.ibuf.length := (Nat.add_le_add_right (by decide) _).trans whole
  exact (memRead_covered inside).symm.trans (covered _)

/-- Settles O35: the length read is the chunk's with bit `n` inverted, so longer by `2 ^ n` or shorter by it. -/
theorem flippedLengthBit : Obligations.FlippedLengthBit := by
  intro s c n ok hn hb
  have size := ilen_of_flipped ok hb
  have parse := execChParse_of_length (by omega) (hb ▸ (flipBit_wire_length ok.len_eq hn).1)
  refine ⟨?_, fun h31 clear => ?_, fun set => ?_⟩
  · rintro rfl
    have longer := toNat_xor_twoPow_of_clear hn ok.len_getLsbD_31
    exact parse.trans (if_pos (by rw [longer, lenMax]; omega))
  · have longer := toNat_xor_twoPow_of_clear hn clear
    have legal : (c.len ^^^ BitVec.twoPow 32 n).toNat ≤ lenMax := by
      rw [BitVec.toNat_xor, BitVec.toNat_twoPow_of_lt hn]
      exact Nat.le_of_lt_succ (Nat.xor_lt_two_pow (Nat.lt_succ_of_le ok.len_le) (Nat.pow_lt_pow_right (by decide) h31))
    rw [if_neg legal.not_gt, longer] at parse
    refine ⟨fun fits => ?_, fun large => parse.trans (if_pos large)⟩
    have cut : s.ilen < 12 + (c.len.toNat + 2 ^ n) :=
      size ▸ Nat.add_lt_add_left (Nat.lt_add_of_pos_right n.two_pow_pos) 12
    exact parse.trans ((if_neg fits.not_gt).trans (if_pos cut))
  · obtain ⟨c', parse, alpha, shorter, covered⟩ := execChParse_of_shortened ok hn hb set
    refine ⟨_, parse, ?_⟩
    by_cases fit : crc32 (c'.typ.bytes ++ c'.data) = c'.crc
    · rw [verdict_of_match alpha fit]
      exact .inr ⟨rfl, c', rfl, shorter, covered ▸ fit.symm⟩
    · rw [verdict_of_mismatch alpha fit]
      exact .inl ⟨rfl, rfl⟩

end Sys2Proof.Machine
end

section
/-! PROOFS. Every step keeps the machine well formed (10_state.md R23, R24, R27, 00_scope.md R6). -/

namespace Sys2Proof.Machine

open Sys2Proof

variable {s t : State}

/-! The invariant after an update of one register. -/

namespace State.Inv

theorem withAcc (h : s.Inv) (a : Word) : State.Inv { s with acc := a } :=
  ⟨h.params, h.type_alpha, h.chunk_ok, h.input_fits, h.output_fits, h.err_code⟩

theorem withRes (h : s.Inv) (v : Word) : State.Inv { s with res := v } :=
  ⟨h.params, h.type_alpha, h.chunk_ok, h.input_fits, h.output_fits, h.err_code⟩

theorem withTy (h : s.Inv) {c : TypeCode} (hc : c.alpha = true) : State.Inv { s with ty := some c } :=
  ⟨h.params, fun _ hd => Option.some.inj hd ▸ hc, h.chunk_ok, h.input_fits, h.output_fits, h.err_code⟩

theorem withCk (h : s.Inv) {c : Chunk} (hc : c.Ok s.cfg.dcap) : State.Inv { s with ck := some c } :=
  ⟨h.params, h.type_alpha, fun _ hd => Option.some.inj hd ▸ hc, h.input_fits, h.output_fits, h.err_code⟩

theorem withIbuf (h : s.Inv) {m : Memory} (hm : m.length ≤ s.cfg.icap) : State.Inv { s with ibuf := m } :=
  ⟨h.params, h.type_alpha, h.chunk_ok, (Memory.wf_iff _ _).2 hm, h.output_fits, h.err_code⟩

theorem withObuf (h : s.Inv) {m : Memory} (hm : Memory.wf (12 + s.cfg.dcap) m = true) :
    State.Inv { s with obuf := m } :=
  ⟨h.params, h.type_alpha, h.chunk_ok, h.input_fits, hm, h.err_code⟩

theorem withStErr (h : s.Inv) {e : BitVec 4} (he : e.toNat ≤ 8) : State.Inv { s with stErr := e } :=
  ⟨h.params, h.type_alpha, h.chunk_ok, h.input_fits, h.output_fits, he⟩

theorem withMoves (h : s.Inv) (moves : List HostMove) : State.Inv { s with moves := moves } :=
  ⟨h.params, h.type_alpha, h.chunk_ok, h.input_fits, h.output_fits, h.err_code⟩

theorem withSeen (h : s.Inv) (seen : List HostRead) : State.Inv { s with seen := seen } :=
  ⟨h.params, h.type_alpha, h.chunk_ok, h.input_fits, h.output_fits, h.err_code⟩

/-- An error empties a register or keeps it, and writes a code of the table. -/
theorem raised (h : s.Inv) (d : Dest) (e : ErrorKind) : (raised d e s).Inv := by
  refine ⟨h.params, fun c hc => ?_, fun c hc => ?_, h.input_fits, h.output_fits, e.code_le⟩
  · rw [raised_ty] at hc
    split at hc
    · cases hc
    · exact h.type_alpha c hc
  · rw [raised_ck] at hc
    split at hc
    · cases hc
    · exact h.chunk_ok c hc

/-- Reset leaves nothing held, both buffers empty and no error. -/
theorem reset (h : s.Inv) : State.Inv { s with toBlock := Block.reset } :=
  ⟨h.params, nofun, nofun, Memory.wf_reset _ .ibuf, Memory.wf_reset _ .obuf, Nat.zero_le 8⟩

/-- What fits the output buffer fits the input buffer, so a copy always does (00_scope.md R6). -/
theorem output_le_icap (h : s.Inv) {m : Memory} (hm : Memory.wf (12 + s.cfg.dcap) m = true) :
    m.length ≤ s.cfg.icap := by
  have params := h.params
  simp only [Params.wf, Bool.and_eq_true, decide_eq_true_eq] at params
  exact ((Memory.wf_iff _ _).1 hm).trans params.1.2

theorem dcap_le (h : s.Inv) : s.cfg.dcap ≤ lenMax := by
  have params := h.params
  simp only [Params.wf, Bool.and_eq_true, decide_eq_true_eq] at params
  exact params.1.1

end State.Inv

/-! Outcomes that are well formed. -/

/-- A next state that the outcome answers is well formed. -/
def AnswersInv (o : Host.Outcome State Fault Refusal) : Prop := ∀ t, o = .next t → t.Inv

namespace AnswersInv

theorem succeed (h : s.Inv) : AnswersInv (succeed s) := fun t ht => by
  rw [succeed_next] at ht
  exact ht ▸ h.withStErr (Nat.zero_le 8)

theorem raise (h : s.Inv) {d : Dest} {e : ErrorKind} : AnswersInv (raise d e s) := fun t ht => by
  rw [raise_next] at ht
  exact ht ▸ h.raised d e

theorem refused {r : Refusal} : AnswersInv (.refused r) := fun _ h => nomatch h

theorem ite {p : Prop} [Decidable p] {a b : Host.Outcome State Fault Refusal} (ha : p → AnswersInv a)
    (hb : ¬ p → AnswersInv b) : AnswersInv (if p then a else b) := by
  split
  next hp => exact ha hp
  next hp => exact hb hp

theorem withType (h : s.Inv) {k : TypeCode → Host.Outcome State Fault Refusal}
    (hk : ∀ c, c.alpha = true → AnswersInv (k c)) : AnswersInv (withType s k) := fun t ht => by
  obtain ⟨-, rfl⟩ | ⟨c, hc, ht⟩ := withType_next.1 ht
  · exact h.withStErr (by decide)
  · exact hk c (h.type_alpha c hc) t ht

theorem withChunk (h : s.Inv) {k : Chunk → Host.Outcome State Fault Refusal}
    (hk : ∀ c, c.Ok s.cfg.dcap → AnswersInv (k c)) : AnswersInv (withChunk s k) := fun t ht => by
  obtain ⟨-, rfl⟩ | ⟨c, hc, ht⟩ := withChunk_next.1 ht
  · exact h.withStErr (by decide)
  · exact hk c (h.chunk_ok c hc) t ht

theorem withTextOps {k : Host.Outcome State Fault Refusal} (hk : AnswersInv k) : AnswersInv (withTextOps s k) :=
  ite (fun _ => hk) fun _ => refused

theorem makeType (h : s.Inv) {c : TypeCode} : AnswersInv (makeType c s) :=
  ite (fun hc => succeed (h.withTy hc)) fun _ => raise h

theorem returnWord (h : s.Inv) {v : Word} : AnswersInv (returnWord v s) := succeed (h.withRes v)

theorem returnBytes (h : s.Inv) {bs : List Byte} (hbs : Memory.wf (12 + s.cfg.dcap) bs = true) :
    AnswersInv (returnBytes bs s) := succeed (h.withObuf hbs)

theorem chNew (h : s.Inv) : AnswersInv (execChNew s) :=
  withType h fun c hc => ite (fun _ => refused) fun legal => ite (fun _ => refused) fun fits =>
    succeed (h.withCk (makeChunk_ok hc (by rw [inputBytes_eq]; exact Nat.not_lt.1 legal)
      (by rw [inputBytes_eq]; exact Nat.not_lt.1 fits)))

/-- CH.PARSE holds a chunk only with a verdict of success, and then a valid one. -/
theorem chParse (h : s.Inv) : AnswersInv (execChParse s) := fun t ht => by
  cases execChParse_parseCase ht with
  | truncated ht => exact ht ▸ h.raised .ck .truncated
  | tooLarge _ _ ht => exact ht ▸ h.raised .ck .lengthTooLarge
  | record c rest hb hl legal fits ht =>
    subst ht
    cases alpha : c.typ.alpha with
    | false => exact verdict_of_not_alpha alpha ▸ h.raised .ck .invalidTypeByte
    | true =>
      by_cases crc : crc32 (c.typ.bytes ++ c.data) = c.crc
      · have ok : c.Ok s.cfg.dcap := ok_of_verdict hl legal fits (s := s) (by rw [verdict_of_match alpha crc])
        exact verdict_of_match alpha crc ▸ (h.withCk ok).withStErr (Nat.zero_le 8)
      · exact verdict_of_mismatch alpha crc ▸ h.raised .ck (.checksumMismatch _ _)

end AnswersInv

theorem exec_keeps_inv (i : Instr) (h : s.Inv) : AnswersInv (exec i s) := by
  cases i with
  | crcInit | crcByte | crcBuf => exact .succeed (h.withAcc _)
  | crcRead => exact .returnWord h
  | crcSum => exact .returnWord (h.withAcc _)
  | ctFromb => exact .makeType h
  | ctFroms => exact .withTextOps (.ite (fun _ => .raise h) fun _ => .ite (fun _ => .raise h) fun _ => .makeType h)
  | ctBytes => exact .withType h fun c _ => .returnBytes h (typeBytes_wf c _)
  | ctDisp => exact .withTextOps (.withType h fun c _ => .returnBytes h (typeBytes_wf c _))
  | ctCrit | ctPub | ctRsv | ctSafe | ctFlags => exact .withType h fun _ _ => .returnWord h
  | ctEq => exact .withType h fun _ _ => .withChunk h fun _ _ => .returnWord h
  | chNew => exact .chNew h
  | chParse => exact .chParse h
  | chLen | chCrc | chSize => exact .withChunk h fun _ _ => .returnWord h
  | chType => exact .withChunk h fun _ ok => .succeed (h.withTy ok.type_alpha)
  | chData => exact .withChunk h fun _ ok => .returnBytes h (payload_keeps_wf ok.data_fits)
  | chEmit => exact .withChunk h fun _ ok => .returnBytes h (wire_keeps_wf ok.data_fits)
  | chText =>
    exact .withTextOps (.withChunk h fun _ ok =>
      .ite (fun _ => .returnBytes h (payload_keeps_wf ok.data_fits)) fun _ => .raise h)

/-- Settles O57: a command by `exec_keeps_inv`, the host's other moves by the registers they update. -/
theorem stepKeepsInvariant : Obligations.StepKeepsInvariant := by
  intro s t h ht
  cases step_next_cases ht with
  | idle _ ht => exact ht ▸ h
  | write bytes rest _ fits ht => exact ht ▸ (h.withIbuf fits).withMoves rest
  | loop rest _ fits ht => exact ht ▸ ((h.withIbuf fits).withMoves rest).withSeen _
  | read rest _ ht => exact ht ▸ (h.withMoves rest).withSeen _
  | reset rest _ ht => exact ht ▸ h.reset.withMoves rest
  | command w rest i _ _ ht => exact exec_keeps_inv i (h.withMoves rest) t ht

/-- Settles O58: nothing is held, the buffers are empty, and the default parameters are legal. -/
theorem resetMeetsInvariant : Obligations.ResetMeetsInvariant :=
  ⟨by decide, nofun, nofun, Memory.wf_reset _ .ibuf, Memory.wf_reset _ .obuf, Nat.zero_le 8⟩

end Sys2Proof.Machine
end

section
/-! PROOFS. Sizes (42_chunk_framer.md R169, R170), and the two round trips through the host's copy: a constructed chunk
(R168) and the display of a type (41_chunk_type.md R137). -/

namespace Sys2Proof.Machine

open Sys2Proof

variable {s : State} {c : Chunk}

theorem exec_chLen (hc : s.ck = some c) : exec .chLen s = .next { s with res := c.len, stErr := 0#4 } :=
  withChunk_of_some hc

theorem exec_chSize (hc : s.ck = some c) : exec .chSize s = .next { s with res := 12#32 + c.len, stErr := 0#4 } :=
  withChunk_of_some hc

theorem exec_chData (hc : s.ck = some c) : exec .chData s = .next { s with obuf := c.payload, stErr := 0#4 } :=
  withChunk_of_some hc

/-- A CH.TEXT that raises no error ends as CH.DATA (42_chunk_framer.md R170). -/
theorem execChText_of_success {t : State} (hc : s.ck = some c) (h : execChText s = .next t) (ok : t.stErr = 0#4) :
    t = { s with obuf := c.payload, stErr := 0#4 } := by
  obtain ⟨-, h⟩ := withTextOps_next.1 h
  rw [withChunk_of_some hc] at h
  split at h
  next => exact returnBytes_next.1 h
  next =>
    cases raise_next.1 h
    cases ok

/-- Settles O32: the sizes of the record and of the payload are those of the chunk's length. -/
theorem sizesAgree : Obligations.SizesAgree := by
  intro s c inv hc
  have ok := inv.chunk_ok c hc
  refine ⟨_, _, _, _, exec_chEmit hc, exec_chSize hc, exec_chLen hc, exec_chData hc, ?_, ok.size_toNat, ?_,
    fun x hx => execChText_of_success hc hx⟩
  · exact (length_wire ok.len_eq).trans ok.size_toNat.symm
  · exact (congrArg List.length (payload_eq ok.len_eq)).trans ok.len_eq.symm

theorem exec_chNew_of_fits {t : TypeCode} (ht : s.ty = some t) (legal : s.ilen ≤ lenMax) (fits : s.ilen ≤ s.cfg.dcap) :
    exec .chNew s = .next { s with ck := some (makeChunk t s.ibuf), stErr := 0#4 } :=
  (execChNew_of_type ht).trans ((if_neg legal.not_gt).trans (if_neg fits.not_gt))

/-- Settles O33: CH.NEW makes a valid chunk, whose record CH.EMIT writes, the copy hands on and CH.PARSE reads. -/
theorem parseOfEmitOfConstructIsIdentity : Obligations.ParseOfEmitOfConstructIsIdentity := by
  intro s t rest inv ht fits hm
  have legal : s.ilen ≤ lenMax := fits.trans inv.dcap_le
  have ok : (makeChunk t s.ibuf).Ok s.cfg.dcap := makeChunk_ok (inv.type_alpha t ht) legal fits
  exact ⟨_, _, _, _,
    step_command (wf_of_not_isText rfl) hm (exec_chNew_of_fits (s := { s with moves := _ }) ht legal fits),
    step_command (wf_of_not_isText rfl) rfl (exec_chEmit rfl),
    step_loop rfl (inv.output_le_icap (wire_keeps_wf ok.data_fits)),
    step_command (wf_of_not_isText rfl) rfl (execChParse_of_ok ok (List.append_nil _).symm),
    rfl, rfl, rfl, rfl, rfl, rfl⟩

theorem exec_ctDisp {t : TypeCode} (hx : s.cfg.textOps = true) (ht : s.ty = some t) :
    exec .ctDisp s = .next { s with obuf := t.bytes, stErr := 0#4 } :=
  (withTextOps_of_true hx).trans (withType_of_some ht)

/-- CT.FROMS of the bytes of a valid type holds that type: letters are ASCII. -/
theorem exec_ctFroms_of_bytes {t : TypeCode} (hx : s.cfg.textOps = true) (ht : t.alpha = true) (hb : s.ibuf = t.bytes) :
    exec .ctFroms s = .next { s with ty := some t, stErr := 0#4 } := by
  have letters := (alpha_iff_letters t.b0 t.b1 t.b2 t.b3).1 ht
  have ascii : ¬ t.nonAscii = true := by
    rw [show t.nonAscii = TypeCode.nonAscii ⟨t.b0, t.b1, t.b2, t.b3⟩ from rfl, nonAscii_iff]
    simp only [Letters, Letter] at letters
    omega
  exact (execCtFroms_of_four hx hb).trans ((if_neg ascii).trans (makeType_of_letters letters))

/-- Settles O21: CT.DISP writes the type's bytes, the copy hands them on, and CT.FROMS makes the same type of them. -/
theorem displayIsIdempotent : Obligations.DisplayIsIdempotent := by
  intro s t rest inv hx ht hm
  have wf (i : Instr) : i.wf s.cfg = true := by simp [Instr.wf, hx]
  exact ⟨_, _, _, _, step_command (wf _) hm (exec_ctDisp (s := { s with moves := _ }) hx ht),
    step_loop rfl (inv.output_le_icap (typeBytes_wf t _)),
    step_command (wf _) rfl (exec_ctFroms_of_bytes hx (inv.type_alpha t ht) rfl),
    step_command (wf _) rfl (exec_ctDisp hx rfl),
    rfl, rfl, rfl, rfl, rfl, ht.symm, rfl⟩

end Sys2Proof.Machine
end

section
/-! PROOFS. The walk of `utf8_valid` against the table of patterns (42_chunk_framer.md R172). -/

namespace Sys2Proof.Machine

open Sys2Proof

variable {owed : List ByteRange} {rows : List (List ByteRange)} {s p : List Byte} {b : Byte}

/-! A pattern begun. -/

/-- The walk through what is owed: the bytes that fit it, and then a walk that owes nothing. -/
theorem utf8Walk_owed_iff : utf8Walk owed s = true ↔ ∃ p q, s = p ++ q ∧ fitsRow p owed ∧ utf8Walk [] q = true := by
  induction owed generalizing s with
  | nil =>
    refine ⟨fun h => ⟨[], s, rfl, trivial, h⟩, fun ⟨p, q, hs, hp, hq⟩ => ?_⟩
    cases p with
    | nil => exact hs ▸ hq
    | cons => exact hp.elim
  | cons r owed ih =>
    cases s with
    | nil =>
      refine ⟨nofun, fun ⟨p, q, hs, hp, _⟩ => ?_⟩
      obtain ⟨rfl, -⟩ := List.append_eq_nil_iff.1 hs.symm
      exact hp.elim
    | cons b s =>
      have first : utf8Walk (r :: owed) (b :: s) = true ↔ r.has b = true ∧ utf8Walk owed s = true := by
        rw [utf8Walk, utf8Next]
        cases r.has b <;> simp
      rw [first, ih]
      constructor
      · rintro ⟨hb, p, q, rfl, hp, hq⟩
        exact ⟨b :: p, q, rfl, ⟨hb, hp⟩, hq⟩
      · rintro ⟨p, q, hs, hp, hq⟩
        cases p with
        | nil => exact hp.elim
        | cons b' p =>
          obtain ⟨rfl, rfl⟩ := List.cons.inj hs
          exact ⟨hp.1, p, q, rfl, hp.2, hq⟩

/-! The table. -/

/-- The first range of one row lies below the first range of the other. -/
abbrev RowBelow (row row' : List ByteRange) : Prop := ∀ r ∈ row.head?, ∀ r' ∈ row'.head?, r.hi < r'.lo

/-- The first ranges rise through the table, so a first byte selects at most one row. -/
theorem utf8Rows_rise : utf8Rows.Pairwise RowBelow := by decide

theorem utf8Start_mem (h : utf8Start b rows = some owed) : ∃ r, r :: owed ∈ rows ∧ r.has b = true := by
  induction rows with
  | nil => cases h
  | cons row rows ih =>
    cases row with
    | nil =>
      obtain ⟨r, hr, hb⟩ := ih h
      exact ⟨r, List.mem_cons_of_mem _ hr, hb⟩
    | cons r row =>
      unfold utf8Start at h
      split at h
      next hb =>
        obtain rfl := Option.some.inj h
        exact ⟨r, List.mem_cons_self, hb⟩
      next =>
        obtain ⟨r, hr, hb⟩ := ih h
        exact ⟨r, List.mem_cons_of_mem _ hr, hb⟩

theorem utf8Start_of_mem (rise : rows.Pairwise RowBelow) {r : ByteRange} (hr : r :: owed ∈ rows)
    (hb : r.has b = true) : utf8Start b rows = some owed := by
  induction rows with
  | nil => cases hr
  | cons row rows ih =>
    obtain ⟨first, others⟩ := List.pairwise_cons.1 rise
    obtain rfl | later := List.mem_cons.1 hr
    · exact if_pos hb
    · cases row with
      | nil => exact ih others later
      | cons r' row =>
        have below : r'.hi < r.lo := first _ later r' rfl r rfl
        have outside : ¬ r'.has b = true := by
          simp only [ByteRange.has, Bool.and_eq_true, decide_eq_true_eq] at hb ⊢
          omega
        rw [utf8Start, if_neg outside]
        exact ih others later

/-! One pattern, then the rest. -/

theorem utf8Valid_cons_iff_start :
    utf8Valid (b :: s) = true ↔ ∃ owed, utf8Start b utf8Rows = some owed ∧ utf8Walk owed s = true := by
  rw [utf8Valid, utf8Walk, utf8Next]
  cases utf8Start b utf8Rows <;> simp

/-- A valid sequence that is not empty is one pattern of the table and a valid sequence. -/
theorem utf8Valid_cons_iff : utf8Valid (b :: s) = true ↔
    ∃ p q, s = p ++ q ∧ (∃ row ∈ utf8Rows, fitsRow (b :: p) row) ∧ utf8Valid q = true := by
  rw [utf8Valid_cons_iff_start]
  constructor
  · rintro ⟨owed, start, walk⟩
    obtain ⟨r, hr, hb⟩ := utf8Start_mem start
    obtain ⟨p, q, hs, hp, hq⟩ := utf8Walk_owed_iff.1 walk
    exact ⟨p, q, hs, ⟨_, hr, hb, hp⟩, hq⟩
  · rintro ⟨p, q, hs, ⟨row, hr, hp⟩, hq⟩
    cases row with
    | nil => exact hp.elim
    | cons r owed => exact ⟨owed, utf8Start_of_mem utf8Rows_rise hr hp.1, utf8Walk_owed_iff.2 ⟨p, q, hs, hp.2, hq⟩⟩

theorem exists_parts_of_utf8Valid {s : List Byte} (h : utf8Valid s = true) :
    ∃ parts : List (List Byte), s = parts.flatten ∧ ∀ p ∈ parts, ∃ row ∈ utf8Rows, fitsRow p row := by
  induction hn : s.length using Nat.strongRecOn generalizing s with
  | ind n ih =>
    cases s with
    | nil => exact ⟨[], rfl, nofun⟩
    | cons b s =>
      obtain ⟨p, q, rfl, row, hq⟩ := utf8Valid_cons_iff.1 h
      have shorter : q.length < n := by simp [← hn]
      obtain ⟨parts, rfl, rows⟩ := ih _ shorter hq rfl
      exact ⟨(b :: p) :: parts, rfl, List.forall_mem_cons.2 ⟨row, rows⟩⟩

theorem utf8Valid_append (hp : ∃ row ∈ utf8Rows, fitsRow p row) (hs : utf8Valid s = true) :
    utf8Valid (p ++ s) = true := by
  cases p with
  | nil => exact hs
  | cons b p => exact utf8Valid_cons_iff.2 ⟨p, s, rfl, hp, hs⟩

/-- Settles O31: patterns are taken off one by one, and put in front one by one. -/
theorem utf8IsConcatenationOfPatterns : Obligations.Utf8IsConcatenationOfPatterns := by
  refine fun s => ⟨exists_parts_of_utf8Valid, ?_⟩
  rintro ⟨parts, rfl, rows⟩
  induction parts with
  | nil => rfl
  | cons p parts ih =>
    obtain ⟨row, rows⟩ := List.forall_mem_cons.1 rows
    exact utf8Valid_append row (ih rows)

end Sys2Proof.Machine
end
